-- ==== Sys2Proof/Word.lean ====
section
/-! DEFINITION. The word types of the engine (00_scope.md R8: every value is an unsigned integer of a stated width). -/

namespace Sys2Proof

/-- A byte, 8 bits (R8). -/
abbrev Byte := BitVec 8

/-- A 32-bit value: a command word, a register access, an MD5 word (R7 `XLEN`, R50). -/
abbrev Word := BitVec 32

/-- A 64-bit value: the message byte counter and the bit length (R7 `COUNTW`, R16). -/
abbrev Count := BitVec 64

/-- A character: a code point of `CPW` = 21 bits (R7, R52). -/
abbrev CodePoint := BitVec 21

/-- A 64-byte MD5 block (R7 `BLOCK_BYTES`, R17). -/
abbrev Block := Vector Byte 64

/-- A 16-byte digest (R7 `DIGEST_BYTES`, R18, R19). -/
abbrev Digest := Vector Byte 16

/-- The 32 character codes of a Result Key (R7 `KEY_CHARS`, R20). -/
abbrev Key := Vector Byte 32

end Sys2Proof
end

