-- ==== Sys2Proof/Machine/Bytes.lean ====
section
/-! DEFINITION. Byte order, rotation and concatenation helpers (00_scope.md R8). They stand under Machine so that they can be mended. -/

namespace Sys2Proof.Machine

/-- `le32(w)` (R8): the four bytes of a word, least significant first. -/
def le32 (w : Word) : Vector Byte 4 :=
  #v[w.extractLsb' 0 8, w.extractLsb' 8 8, w.extractLsb' 16 8, w.extractLsb' 24 8]

/-- `le64(w)` (R8): the eight bytes of a 64-bit value, least significant first. -/
def le64 (w : Count) : Vector Byte 8 :=
  #v[w.extractLsb' 0 8, w.extractLsb' 8 8, w.extractLsb' 16 8, w.extractLsb' 24 8,
     w.extractLsb' 32 8, w.extractLsb' 40 8, w.extractLsb' 48 8, w.extractLsb' 56 8]

/-- `word32(b0, b1, b2, b3)` (R8): the word whose least significant byte is `b0`. -/
def word32 (b0 b1 b2 b3 : Byte) : Word := b3 ++ b2 ++ b1 ++ b0

/-- `bswap32(w)` (R8): the four bytes of a word in the opposite order. -/
def bswap32 (w : Word) : Word :=
  word32 (w.extractLsb' 24 8) (w.extractLsb' 16 8) (w.extractLsb' 8 8) (w.extractLsb' 0 8)

/-- `rotl32(v, n)` (R8), for `1 <= n <= 31`. -/
def rotl32 (v : Word) (n : Nat) : Word := (v <<< n) ||| (v >>> (32 - n))

/-- The `n` low bytes of a number, least significant first: the bytes that a bus write of `n` bytes carries (20_memory.md R34). -/
def leBytes : Nat → Nat → List Byte
  | 0, _ => []
  | n + 1, v => BitVec.ofNat 8 v :: leBytes n (v / 256)

end Sys2Proof.Machine
end

