-- ==== Sys2Proof/Syntax.lean ====
section
/-! DEFINITION. The command words as an instruction type: one constructor per row of spec/opcode_table.json (30_encoding.md R53). -/

namespace Sys2Proof

/-- The three commands of the engine (R53). The one operand is the 21-bit immediate `cp` of `PUSH` (R52); no command has a
register or an address operand. -/
inductive Instr where
  /-- `INIT`: start a new message (40_commands.md R65). -/
  | init
  /-- `PUSH cp`: append one character to the message (R66). -/
  | push (cp : CodePoint)
  /-- `FINAL`: end the message and produce the outputs (R67). -/
  | final
  deriving DecidableEq, Repr

end Sys2Proof
end

