-- ==== Sys2Proof/WellFormed.lean ====
section
/-! DEFINITION. Well-formedness: what an operand must satisfy to have an encoding (30_encoding.md R51, R52, R58). -/

namespace Sys2Proof

/-- A number written as the operand of `PUSH` must fit the 21-bit field `cp`: 0 to 0x1FFFFF (R52, R58). -/
def codePointOk (cp : Nat) : Bool := decide (cp ≤ 0x1FFFFF)

/-- A number written as a whole command word must fit 32 bits (R50, R58 `.word`). -/
def commandWordOk (w : Nat) : Bool := decide (w ≤ 0xFFFFFFFF)

/-- Well-formed instructions: every operand fits its field (R51). The type `CodePoint` already has the width of the field, so
every instruction passes; a number that does not fit never becomes one (`Instr.push?`). -/
def Instr.wf : Instr → Bool
  | .init => true
  | .push cp => codePointOk cp.toNat
  | .final => true

/-- `PUSH` with a written operand: an instruction exactly when the number fits the field (R52, R58). -/
def Instr.push? (cp : Nat) : Option Instr :=
  if codePointOk cp then some (.push (BitVec.ofNat 21 cp)) else none

end Sys2Proof
end

