-- ==== Sys2Proof/Decode.lean ====
section
/-! DEFINITION. Decoding and encoding of command words (30_encoding.md R50 to R57). Both are written from the tables of R51 and R53.
-/

namespace Sys2Proof

/-- `op = w[31:28]` (R51). -/
def opField (w : Word) : BitVec 4 := w.extractLsb' 28 4

/-- `rsv = w[27:21]` (R51). -/
def rsvField (w : Word) : BitVec 7 := w.extractLsb' 21 7

/-- `cp = w[20:0]` (R51). -/
def cpField (w : Word) : CodePoint := w.extractLsb' 0 21

/-- Why a word is illegal, by name (R55). All of them are the one outcome `ILLEGAL` of R54. Log entry 14. -/
inductive IllegalWord where
  /-- `op = 0` or `op >= 4`. -/
  | reservedOpcode
  /-- A nonzero bit in `rsv`. -/
  | reservedBits
  /-- A nonzero `cp` bit in `INIT` or `FINAL`. -/
  | codePointBits
  /-- Not four bytes: no command at all (R50). A bus access of another size never reaches the decoder (R33). -/
  | wrongLength
  deriving DecidableEq, Repr

/-- The outcome of decoding (R54): an instruction, or `ILLEGAL` with the reason. -/
inductive Decoded where
  | instr (i : Instr)
  | illegal (why : IllegalWord)
  deriving DecidableEq, Repr

/-- The reason a word that selects no row of R53 is illegal (R55), the opcode field looked at first. -/
def illegalReason (w : Word) : IllegalWord :=
  if opField w = 0 ∨ 4 ≤ (opField w).toNat then .reservedOpcode
  else if rsvField w ≠ 0 then .reservedBits
  else .codePointBits

/-- `Decode(w)` (R54): total on 32-bit words, and a function of the word alone. -/
def decode (w : Word) : Decoded :=
  if w = 0x10000000 then .instr .init
  else if w &&& 0xFFE00000 = 0x20000000 then .instr (.push (cpField w))
  else if w = 0x30000000 then .instr .final
  else .illegal (illegalReason w)

/-- `Legal(w)` (R54). -/
def legalWord (w : Word) : Bool :=
  match decode w with
  | .instr _ => true
  | .illegal _ => false

/-- Decoding from bytes in bus order, the byte at the lowest address first (20_memory.md R34). -/
def decodeBytes : List Byte → Decoded
  | [b0, b1, b2, b3] => decode (Machine.word32 b0 b1 b2 b3)
  | _ => .illegal .wrongLength

/-- The command word of an instruction (R53). -/
def encode : Instr → Word
  | .init => 0x10000000
  | .push cp => 0x20000000 ||| cp.setWidth 32
  | .final => 0x30000000

/-- The bytes of an instruction in bus order (20_memory.md R34). -/
def encodeBytes (i : Instr) : List Byte := (Machine.le32 (encode i)).toList

/-- One row of the opcode map (R53): a word `w` selects the row when `w AND mask = match`. -/
structure OpcodeRow where
  matchBits : Word
  maskBits : Word
  deriving DecidableEq, Repr

/-- The row of the opcode map an instruction belongs to (R53). -/
def opcodeRow : Instr → OpcodeRow
  | .init => ⟨0x10000000, 0xFFFFFFFF⟩
  | .push _ => ⟨0x20000000, 0xFFE00000⟩
  | .final => ⟨0x30000000, 0xFFFFFFFF⟩

/-- `w` selects the row `r` (R53). -/
def OpcodeRow.selects (r : OpcodeRow) (w : Word) : Bool := w &&& r.maskBits == r.matchBits

/-- The instruction the decoder reads from an instruction whose bits are `w`, of which the table gives `nbits`: its four bytes in
bus order are given to the decoder. -/
def decodeTableWord (nbits w : Nat) : Option Instr :=
  match decodeBytes (Machine.leBytes 4 (w % 2 ^ nbits)) with
  | .instr i => some i
  | .illegal _ => none

end Sys2Proof
end

