-- ==== Sys2Proof/Config.lean ====
section
/-! DEFINITION. What an implementation fixes: the parameters of 00_scope.md R7.
Those the spec gives a value stand here as numbers; those it leaves OPEN are opaque constants, so that no proof can use a value of them. -/

namespace Sys2Proof.Config

/-- `WINDOW` (R7, R30): the size of the register window in bytes. -/
def window : Nat := 128

/-- `ASCII_LIMIT` (R7): the first code point the ASCII encoder refuses. -/
def asciiLimit : Nat := 128

/-- `BASE` divided by 128: OPEN in R7, decision D2. DESIGN CHOICE (safe): log entry 1. -/
opaque baseBlock : Nat

/-- `BASE` (R7, R30): the bus address of byte 0 of the window, a multiple of 128. -/
def base : Nat := window * baseBlock

/-- `PROMPT` (R7, R116): the shell's prompt text, OPEN (D25). Log entry 9. -/
opaque prompt : List CodePoint

/-- `LABEL` (R7, R119): the label of the output line, OPEN (D25). Log entry 9. -/
opaque label : List CodePoint

/-- `LENGTH_ERROR_MESSAGE` (R7, R117): the text of the length diagnostic, OPEN (D25). Log entry 9. -/
opaque lengthErrorMessage : List CodePoint

/-- Characters at the ends of the spec's own lines that the shell keeps when it trims (44_host_shell.md R125, 95_test_vectors.md T6 and
H5 to H9): 'A', 'P', 'Q', U+00E9 and U+0141. DEDUCED (safe): log entry 19. -/
def keptCharacters : List CodePoint := [0x41, 0x50, 0x51, 0xE9, 0x141]

/-- The part of `IsWhitespace` the spec leaves OPEN (R7, R116, D25). Log entry 9. -/
opaque otherWhitespace : CodePoint → Bool

/-- `IsWhitespace` (R116, R125, D25): U+0020 is in the set, the kept characters are not, the rest of the set is OPEN. -/
def isWhitespace (c : CodePoint) : Bool := c == 0x20 || (!keptCharacters.contains c && otherWhitespace c)

/-- `ENCODING_FAULT_EXIT` (R7, R122): the exit status on the Encoding-error path, OPEN (D26). Log entry 9. -/
opaque encodingFaultExit : Int

/-- `ENCODING_FAULT_TRACE` (R7, R122): the diagnostic text on the Encoding-error path, OPEN (D26). Log entry 9. -/
opaque encodingFaultTrace : List CodePoint

end Sys2Proof.Config
end

