-- ==== Sys2Proof/Machine/Md5.lean ====
section
/-! DEFINITION. The MD5 unit as pure functions (41_md5_engine.md). The spec marks the inside of MD5 as general knowledge of its own
(93 item G1); the model follows the spec's rules and adds nothing. -/

namespace Sys2Proof.Machine

/-- Four 32-bit words: the chaining value `A, B, C, D` (10_state.md R12), or the round variables `a, b, c, d` (R86). -/
structure Chain where
  a : Word
  b : Word
  c : Word
  d : Word
  deriving DecidableEq, Repr

/-- `IV`, the initial chaining value (R81). -/
def iv : Chain := ⟨0x67452301, 0xEFCDAB89, 0x98BADCFE, 0x10325476⟩

/-- `F(x, y, z)` (R84), round 1. -/
def auxF (x y z : Word) : Word := (x &&& y) ||| (~~~x &&& z)

/-- `G(x, y, z)` (R84), round 2. -/
def auxG (x y z : Word) : Word := (x &&& z) ||| (y &&& ~~~z)

/-- `H(x, y, z)` (R84), round 3. -/
def auxH (x y z : Word) : Word := x ^^^ y ^^^ z

/-- `I(x, y, z)` (R84), round 4. -/
def auxI (x y z : Word) : Word := y ^^^ (x ||| ~~~z)

/-- `Fn_i` (R85, R86): the auxiliary function that step `i` uses. -/
def stepFn (i : Nat) (x y z : Word) : Word :=
  if i < 16 then auxF x y z
  else if i < 32 then auxG x y z
  else if i < 48 then auxH x y z
  else auxI x y z

/-- The table `K` of R85: the index of the message word of each step. -/
def tableK : List Nat :=
  [0, 1, 2, 3, 4, 5, 6, 7, 8, 9, 10, 11, 12, 13, 14, 15,
   1, 6, 11, 0, 5, 10, 15, 4, 9, 14, 3, 8, 13, 2, 7, 12,
   5, 8, 11, 14, 1, 4, 7, 10, 13, 0, 3, 6, 9, 12, 15, 2,
   0, 7, 14, 5, 12, 3, 10, 1, 8, 15, 6, 13, 4, 11, 2, 9]

/-- The table `S` of R85: the rotate amount of each step. -/
def tableS : List Nat :=
  [7, 12, 17, 22, 7, 12, 17, 22, 7, 12, 17, 22, 7, 12, 17, 22,
   5, 9, 14, 20, 5, 9, 14, 20, 5, 9, 14, 20, 5, 9, 14, 20,
   4, 11, 16, 23, 4, 11, 16, 23, 4, 11, 16, 23, 4, 11, 16, 23,
   6, 10, 15, 21, 6, 10, 15, 21, 6, 10, 15, 21, 6, 10, 15, 21]

/-- The table `T` of R85: the additive constant of each step, steps 0 to 31. -/
def tableTLow : List Word :=
  [0xD76AA478, 0xE8C7B756, 0x242070DB, 0xC1BDCEEE, 0xF57C0FAF, 0x4787C62A, 0xA8304613, 0xFD469501,
   0x698098D8, 0x8B44F7AF, 0xFFFF5BB1, 0x895CD7BE, 0x6B901122, 0xFD987193, 0xA679438E, 0x49B40821,
   0xF61E2562, 0xC040B340, 0x265E5A51, 0xE9B6C7AA, 0xD62F105D, 0x02441453, 0xD8A1E681, 0xE7D3FBC8,
   0x21E1CDE6, 0xC33707D6, 0xF4D50D87, 0x455A14ED, 0xA9E3E905, 0xFCEFA3F8, 0x676F02D9, 0x8D2A4C8A]

/-- The table `T` of R85, steps 32 to 63. -/
def tableTHigh : List Word :=
  [0xFFFA3942, 0x8771F681, 0x6D9D6122, 0xFDE5380C, 0xA4BEEA44, 0x4BDECFA9, 0xF6BB4B60, 0xBEBFBC70,
   0x289B7EC6, 0xEAA127FA, 0xD4EF3085, 0x04881D05, 0xD9D4D039, 0xE6DB99E5, 0x1FA27CF8, 0xC4AC5665,
   0xF4292244, 0x432AFF97, 0xAB9423A7, 0xFC93A039, 0x655B59C3, 0x8F0CCC92, 0xFFEFF47D, 0x85845DD1,
   0x6FA87E4F, 0xFE2CE6E0, 0xA3014314, 0x4E0811A1, 0xF7537E82, 0xBD3AF235, 0x2AD7D2BB, 0xEB86D391]

/-- The table `T` of R85. -/
def tableT : List Word := tableTLow ++ tableTHigh

/-- `K[i]` (R85); the tables are used for `i < 64` only. Log entry 16. -/
def stepK (i : Nat) : Nat := tableK.getD i 0

/-- `S[i]` (R85). -/
def stepS (i : Nat) : Nat := tableS.getD i 0

/-- `T[i]` (R85). -/
def stepT (i : Nat) : Word := tableT.getD i 0

/-- The sixteen words `X[0..15]` of a block, little-endian (R83). -/
def blockWords (p : Block) : Vector Word 16 :=
  Vector.ofFn fun j => word32 p[4 * j.val] p[4 * j.val + 1] p[4 * j.val + 2] p[4 * j.val + 3]

/-- `X[k]` of the block words. -/
def wordAt (x : Vector Word 16) (k : Nat) : Word := x.toList.getD k 0

/-- `Step(i, (a, b, c, d), X)` (R86), of which FF, GG, HH and II (R87 to R90) are the four rounds. -/
def md5Step (x : Vector Word 16) (r : Chain) (i : Nat) : Chain :=
  ⟨r.d, r.b + rotl32 (r.a + stepFn i r.b r.c r.d + wordAt x (stepK i) + stepT i) (stepS i), r.b, r.c⟩

/-- The first `n` steps of a compression, in increasing order (R91). -/
def md5Steps (x : Vector Word 16) (r : Chain) (n : Nat) : Chain := (List.range n).foldl (md5Step x) r

/-- The word by word addition that ends a compression (R91). -/
def Chain.add (h r : Chain) : Chain := ⟨h.a + r.a, h.b + r.b, h.c + r.c, h.d + r.d⟩

/-- `CompressF((A, B, C, D), P)` (R91): 64 steps, then the old chaining value is added. -/
@[irreducible] def compressF (h : Chain) (p : Block) : Chain := h.add (md5Steps (blockWords p) h 64)

/-- The digest bytes of a chaining value: `le32(A) ‖ le32(B) ‖ le32(C) ‖ le32(D)` (R93). -/
@[irreducible] def digestBytes (h : Chain) : Digest := le32 h.a ++ le32 h.b ++ le32 h.c ++ le32 h.d

/-- The number `z` of zero bytes that padding adds to a message of `n` bytes: `(55 - n) mod 64` (R82). -/
def padZeros (n : Nat) : Nat := (119 - n % 64) % 64

/-- The length in bits that padding appends: `(8 * n) mod 2^64` (R82). -/
def bitLength (n : Nat) : Count := BitVec.ofNat 64 (8 * n)

/-- `Pad(m)` (R82). -/
def pad (m : List Byte) : List Byte :=
  m ++ [0x80] ++ List.replicate (padZeros m.length) 0x00 ++ (le64 (bitLength m.length)).toList

/-- The block that the first 64 bytes of a list form. -/
def blockOf (p : List Byte) : Block := Vector.ofFn fun j => p.getD j.val 0

/-- `N` blocks of `p` compressed in order from the chaining value `h` (R95). -/
def compressBlocks : Nat → Chain → List Byte → Chain
  | 0, h, _ => h
  | n + 1, h, p => compressBlocks n (compressF h (blockOf p)) (p.drop 64)

/-- `MD5(m)` (R95), for a byte list of any length and any byte values. -/
def md5 (m : List Byte) : Digest :=
  digestBytes (compressBlocks ((pad m).length / 64) iv (pad m))

end Sys2Proof.Machine
end

