-- ==== Sys2Proof/Machine/State.lean ====
section
/-! DEFINITION. The state of the machine as plain data: the registers of the engine (10_state.md R12 to R23), and the bus as the
model's own fields (log entry 2). -/

namespace Sys2Proof.Machine

/-- `PHASE` (R13): its three legal values. Value 3 never occurs. Log entry 7. -/
inductive Phase where
  /-- 0: a message is being collected. -/
  | absorb
  /-- 1: a `FINAL` has completed, the outputs are valid. -/
  | done
  /-- 2: a command was refused; only `INIT` or reset leaves this phase. -/
  | fault
  deriving DecidableEq, Repr

/-- `CAUSE` (R14, 60_exceptions.md R135): the cause of the first fault since the last `INIT` or reset. Values 4 to 15 never occur.
Log entry 7. -/
inductive Cause where
  /-- 0: no fault recorded. -/
  | none
  /-- 1: a character at or above 128 (R131). -/
  | encodingError
  /-- 2: a word that decodes to nothing (R132). -/
  | illegalCommand
  /-- 3: a command that continues a finished message (R133). -/
  | sequenceError
  deriving DecidableEq, Repr

/-- The registers of the engine: the complete list of R23, and no others. -/
structure Engine where
  /-- `A`, 32 bits (R12). -/
  a : Word
  /-- `B`, 32 bits (R12). -/
  b : Word
  /-- `C`, 32 bits (R12). -/
  c : Word
  /-- `D`, 32 bits (R12). -/
  d : Word
  /-- `PHASE`, 2 bits (R13). -/
  phase : Phase
  /-- `CAUSE`, 4 bits (R14). -/
  cause : Cause
  /-- `FAULTINFO`, 32 bits (R15). -/
  faultInfo : Word
  /-- `COUNT`, 64 bits (R16). -/
  count : Count
  /-- `BUF`, 64 bytes (R17). -/
  buf : Block
  /-- `DIGEST`, 16 bytes (R18). -/
  digest : Digest
  /-- `RDIGEST`, 16 bytes (R19). -/
  rdigest : Digest
  /-- `KEY`, 32 bytes (R20). -/
  key : Key
  deriving DecidableEq, Repr

/-- A step of the host or of the reset input (R10 (2), 70_reset_and_hazards.md R150, R162). An address is written as its distance
from `BASE` (log entry 1); a write carries its bytes in bus order, so that its size is their number (log entry 8). -/
inductive HostStep where
  /-- `MemRead(BASE + off, size)`. -/
  | read (off : Int) (size : Nat)
  /-- `MemWrite(BASE + off, size, v)` with `size` bytes, the lowest address first. -/
  | write (off : Int) (bytes : List Byte)
  /-- The reset input is applied (R150). -/
  | reset
  deriving DecidableEq, Repr

/-- What the bus gives back for one access (20_memory.md R33, R35, R36, R30). -/
inductive Response where
  /-- A write completed with an OK response (R36). -/
  | written
  /-- A read completed with its 32 bits (R35). -/
  | data (v : Word)
  /-- An error response: `AccessFault(BASE + off)` (R33, 60_exceptions.md R134). -/
  | error (off : Int)
  /-- No response of the engine: the address lies outside the window (R30). -/
  | silent (off : Int)
  deriving DecidableEq, Repr

/-- The state. `engine` is the spec's; `pending` and `observed` are the model's own, the bus between host and engine (log entry 2). -/
structure State where
  /-- The registers of the engine (R23). -/
  engine : Engine
  /-- The steps the bus has still to deliver, the next one first (20_memory.md R41). -/
  pending : List HostStep
  /-- The responses the bus has given, the latest one first (R33, R35, R36). -/
  observed : List Response
  deriving DecidableEq, Repr

/-- Why a run stops with a fault. The step function never stops so: an `AccessFault` is a response there, and the run goes on. -/
inductive Fault where
  /-- A host program performed an access that is not legal (60_exceptions.md R134: "A model should treat a host program that performs
  such an access as faulting at that access"). Raised by `runProgram`, `memRead` and `memWrite`. Safe: the program stops where a real host could go on. -/
  | accessFault (off : Int)
  deriving DecidableEq, Repr

/-- Why a run is refused. -/
inductive Refusal where
  /-- An instruction without a meaning, by its mnemonic. No arm of `exec` raises it: every command has its meaning. Safe. -/
  | notModelled (mnemonic : String)
  /-- A host program needs the answer to an access outside the window, which "is not the engine's business" (20_memory.md R30).
  Raised by `memRead` and `memWrite`. Safe: the model claims nothing about another device. -/
  | outsideWindow (off : Int)
  deriving DecidableEq, Repr

/-- The registers after reset: the table of R29, every register at the value it gives. -/
def Engine.reset : Engine where
  a := 0x67452301
  b := 0xEFCDAB89
  c := 0x98BADCFE
  d := 0x10325476
  phase := .absorb
  cause := .none
  faultInfo := 0x00000000
  count := 0
  buf := Vector.replicate 64 0x00
  digest := Vector.replicate 16 0x00
  rdigest := Vector.replicate 16 0x00
  key := Vector.replicate 32 0x00

/-- The machine right after reset (R29, R150). No host step is pending and none has been answered (log entry 2). -/
def State.reset : State where
  engine := Engine.reset
  pending := []
  observed := []

end Sys2Proof.Machine
end

