-- ==== Sys2Proof/Machine/Flags.lean ====
section
/-! DEFINITION. The status flags and the `STATUS` view (10_state.md R21, R24). The engine has no arithmetic condition codes. -/

namespace Sys2Proof.Machine

/-- The value of the 2-bit register `PHASE` (R13). -/
def Phase.code : Phase → BitVec 2
  | .absorb => 0
  | .done => 1
  | .fault => 2

/-- The value of the 4-bit register `CAUSE` (R14, R135). -/
def Cause.code : Cause → BitVec 4
  | .none => 0
  | .encodingError => 1
  | .illegalCommand => 2
  | .sequenceError => 3

/-- `STATUS.DONE` (R21, R24): 1 exactly when `PHASE = DONE`. -/
def Engine.doneFlag (e : Engine) : Bool := e.phase == .done

/-- `STATUS.FAULT` (R21, R24): 1 exactly when `PHASE = FAULT`. -/
def Engine.faultFlag (e : Engine) : Bool := e.phase == .fault

/-- `STATUS` (R21): bits 31:12 zero, 11:8 `CAUSE`, 7:2 zero, 1 `FAULT`, 0 `DONE`. It stores nothing of its own. -/
def Engine.status (e : Engine) : Word :=
  (0 : BitVec 20) ++ e.cause.code ++ (0 : BitVec 6) ++ BitVec.ofBool e.faultFlag ++ BitVec.ofBool e.doneFlag

end Sys2Proof.Machine
end

