-- ==== Sys2Proof/Machine/Hex.lean ====
section
/-! DEFINITION. The hex-digit formatter as pure functions (43_hex_formatter.md). -/

namespace Sys2Proof.Machine

/-- `HexDigit(v)` (R107): the ASCII code of the lowercase hexadecimal digit of `v`. -/
def hexDigit (v : BitVec 4) : Byte :=
  if v.toNat ≤ 9 then 0x30 + v.setWidth 8 else 0x61 + (v.setWidth 8 - 10)

/-- The high half of a byte, bits 7:4 (R106). -/
def highHalf (b : Byte) : BitVec 4 := b.extractLsb' 4 4

/-- The low half of a byte, bits 3:0 (R106). -/
def lowHalf (b : Byte) : BitVec 4 := b.extractLsb' 0 4

/-- `HexLower(r)` (R106): character `2i` is the high half of byte `i`, character `2i + 1` its low half. -/
@[irreducible] def hexLower (r : Digest) : Key :=
  Vector.ofFn fun j =>
    if j.val % 2 = 0 then hexDigit (highHalf r[j.val / 2]) else hexDigit (lowHalf r[j.val / 2])

/-- A character of `'0'..'9'` or `'a'..'f'` (10_state.md R28 (e), 40_commands.md R72). -/
def isHexChar (k : Byte) : Bool :=
  (decide (0x30 ≤ k.toNat) && decide (k.toNat ≤ 0x39)) || (decide (0x61 ≤ k.toNat) && decide (k.toNat ≤ 0x66))

end Sys2Proof.Machine
end

