-- ==== Sys2Proof/Machine/Operands.lean ====
section
/-! DEFINITION. Operand assembly (30_encoding.md R52): the one operand form, the 21-bit immediate `cp`. -/

namespace Sys2Proof.Machine

/-- The test of the ASCII encoder, passed when `cp < 128` (40_commands.md R62, R66): unsigned, on all 21 bits. -/
def isAscii (cp : CodePoint) : Bool := decide (cp.toNat < Config.asciiLimit)

/-- The message byte of a character, `cp[7:0]` (R52, R66), used only when `cp < 128`. -/
def codePointByte (cp : CodePoint) : Byte := cp.extractLsb' 0 8

end Sys2Proof.Machine
end

