-- ==== Sys2Proof/Machine/Reverse.lean ====
section
/-! DEFINITION. The byte-order reversal unit as a pure function (42_byte_reversal.md). -/

namespace Sys2Proof.Machine

/-- `ReverseBytes(d)` (R100): index `i` goes to index `15 - i`; the bits inside a byte keep their order. -/
@[irreducible] def reverseBytes (d : Digest) : Digest := Vector.ofFn fun i => d[15 - i.val]

end Sys2Proof.Machine
end

