-- ==== Sys2Proof/Machine/Ops.lean ====
section
/-! DEFINITION. The named operations over the registers: fault entry and return, the block buffer, the three units at register level,
and the sequencer's phase check. -/

namespace Sys2Proof.Machine

open Host

/-! ## Fault entry and return -/

/-- `fault(c, w)`, fault entry (60_exceptions.md R136): the one operation by which a command fault is taken. There is no handler, no mode
and no saved program counter; `A` to `D`, `BUF` and `COUNT` keep their values. -/
def Engine.enterFault (e : Engine) (c : Cause) (w : Word) : Engine :=
  { e with
    phase := .fault
    cause := c
    faultInfo := w
    digest := Vector.replicate 16 0x00
    rdigest := Vector.replicate 16 0x00
    key := Vector.replicate 32 0x00 }

/-- `do_INIT` (40_commands.md R65): a new message, which is also the return from a fault (R139). It sets every register. -/
def Engine.startMessage (e : Engine) : Engine :=
  { e with
    a := iv.a
    b := iv.b
    c := iv.c
    d := iv.d
    buf := Vector.replicate 64 0x00
    count := 0
    phase := .absorb
    cause := .none
    faultInfo := 0x00000000
    digest := Vector.replicate 16 0x00
    rdigest := Vector.replicate 16 0x00
    key := Vector.replicate 32 0x00 }

/-! ## The MD5 unit at register level -/

/-- The chaining value held in `A`, `B`, `C`, `D` (10_state.md R12). -/
def Engine.chain (e : Engine) : Chain := ⟨e.a, e.b, e.c, e.d⟩

/-- Write `A`, `B`, `C`, `D`. -/
def Engine.withChain (e : Engine) (h : Chain) : Engine :=
  { e with a := h.a, b := h.b, c := h.c, d := h.d }

/-- `Compress(BUF)` (41_md5_engine.md R91): the buffer is read and not changed. -/
def Engine.compress (e : Engine) : Engine := e.withChain (compressF e.chain e.buf)

/-- Write `BUF` whole. -/
def Engine.withBuf (e : Engine) (p : Block) : Engine := { e with buf := p }

/-- The fill index `COUNT mod 64` (10_state.md R17). -/
def Engine.fillIndex (e : Engine) : Nat := e.count.toNat % 64

theorem Engine.fillIndex_lt (e : Engine) : e.fillIndex < 64 := Nat.mod_lt _ (by decide)

/-- `BUF[n] <- b; COUNT <- COUNT + 1` with `n` the fill index: the first part of `absorb` (R68). -/
def Engine.store (e : Engine) (b : Byte) : Engine :=
  { e with buf := e.buf.set e.fillIndex b e.fillIndex_lt, count := e.count + 1 }

/-- `absorb(b)` (R68): one message byte into the block buffer, and a compression when it fills it. -/
def Engine.absorb (e : Engine) (b : Byte) : Engine :=
  if e.fillIndex = 63 then (e.store b).compress else e.store b

/-- `BUF[n] <- 0x80` and zeros after it (R92). -/
@[irreducible] def padTail (n : Nat) (p : Block) : Block :=
  Vector.ofFn fun j => if j.val < n then p[j.val] else if j.val = n then 0x80 else 0x00

/-- `BUF[56..63] <- le64(L)` (R92). -/
@[irreducible] def putLength (len : Count) (p : Block) : Block :=
  Vector.ofFn fun j => if j.val < 56 then p[j.val] else (le64 len)[j.val - 56]

/-- The length of the message in bits, `(COUNT * 8) mod 2^64` (R92, R94 (b)). -/
def Engine.bitCount (e : Engine) : Count := e.count * 8

/-- The first part of `PadFinal` (R92): the marker and the zeros, and a compression when the length has no room (`n >= 56`), after which
the buffer is all zero. -/
def Engine.padMarker (e : Engine) : Engine :=
  if 56 ≤ e.fillIndex then (e.withBuf (padTail e.fillIndex e.buf)).compress.withBuf (Vector.replicate 64 0x00)
  else e.withBuf (padTail e.fillIndex e.buf)

/-- `PadFinal` (R92): the padding in place, with the one or two compressions it needs. `COUNT` is not changed. -/
def Engine.padFinal (e : Engine) : Engine :=
  (e.padMarker.withBuf (putLength e.bitCount e.padMarker.buf)).compress

/-- Write `DIGEST`. -/
def Engine.withDigest (e : Engine) (v : Digest) : Engine := { e with digest := v }

/-- The digest output (R93). -/
def Engine.writeDigest (e : Engine) : Engine := e.withDigest (digestBytes e.chain)

/-! ## The reversal unit and the hex unit at register level -/

/-- Write `RDIGEST`. -/
def Engine.withRdigest (e : Engine) (v : Digest) : Engine := { e with rdigest := v }

/-- Write `KEY`. -/
def Engine.withKey (e : Engine) (v : Key) : Engine := { e with key := v }

/-- The reversal unit (42_byte_reversal.md R101): `RDIGEST[i] <- DIGEST[15 - i]`. -/
def Engine.writeReversed (e : Engine) : Engine := e.withRdigest (reverseBytes e.digest)

/-- The hex unit (43_hex_formatter.md R108): `KEY` from `RDIGEST`. -/
def Engine.writeKey (e : Engine) : Engine := e.withKey (hexLower e.rdigest)

/-- `PHASE <- DONE` (10_state.md R13). -/
def Engine.setDone (e : Engine) : Engine := { e with phase := .done }

/-- `do_FINAL` (40_commands.md R67): its statements in order, each reading what the one before it wrote. -/
def Engine.finish (e : Engine) : Engine :=
  e.padFinal.writeDigest.writeReversed.writeKey.setDone

/-- `do_PUSH(cp, w)` (R66): the ASCII encoder's test on the character, then the byte is absorbed. -/
def Engine.takeCharacter (e : Engine) (cp : CodePoint) (w : Word) : Engine :=
  if isAscii cp then e.absorb (codePointByte cp) else e.enterFault .encodingError w

/-! ## The sequencer -/

/-- Write the registers of the engine. -/
def State.withEngine (s : State) (e : Engine) : State := { s with engine := e }

/-- The sequencer's phase check for a legal command other than `INIT` (R64): ignored in phase `FAULT`, a `SequenceError` in phase
`DONE`, its effect in phase `ABSORB`. `w` is the command word. -/
def sequenced (w : Word) (effect : Engine → Engine) (s : State) : Outcome State Fault Refusal :=
  match s.engine.phase with
  | .fault => .next s
  | .done => .next (s.withEngine (s.engine.enterFault .sequenceError w))
  | .absorb => .next (s.withEngine (effect s.engine))

/-- An illegal word (R64, 60_exceptions.md R132): ignored in phase `FAULT`, an `IllegalCommand` in the other two. -/
def illegalCommand (w : Word) (s : State) : Outcome State Fault Refusal :=
  match s.engine.phase with
  | .fault => .next s
  | .done => .next (s.withEngine (s.engine.enterFault .illegalCommand w))
  | .absorb => .next (s.withEngine (s.engine.enterFault .illegalCommand w))

/-- Go on with a result, or stop as it stopped. -/
def andThen {σ τ : Type} (o : Outcome σ Fault Refusal) (f : σ → Outcome τ Fault Refusal) : Outcome τ Fault Refusal :=
  match o with
  | .next s => f s
  | .fault r => .fault r
  | .refused r => .refused r

/-- The bus gives the host a response. -/
def State.respond (s : State) (r : Response) : State := { s with observed := r :: s.observed }

end Sys2Proof.Machine
end

