-- ==== Sys2Proof/Machine/Commands.lean ====
section
/-! DEFINITION. The meanings of the three commands (40_commands.md R64 to R67), one definition each. -/

namespace Sys2Proof.Machine

open Host

/-- `INIT` (R65): accepted in every phase. -/
def execInit (s : State) : Outcome State Fault Refusal := .next (s.withEngine s.engine.startMessage)

/-- `PUSH cp` (R66) behind the phase check of R64. The command word that a fault records is the encoding of the command (log entry 13). -/
def execPush (cp : CodePoint) (s : State) : Outcome State Fault Refusal :=
  sequenced (encode (.push cp)) (fun e => e.takeCharacter cp (encode (.push cp))) s

/-- `FINAL` (R67) behind the phase check of R64. -/
def execFinal (s : State) : Outcome State Fault Refusal :=
  sequenced (encode .final) Engine.finish s

end Sys2Proof.Machine
end

