-- ==== Sys2Proof/Machine/Dispatch.lean ====
section
/-! DEFINITION. One arm per command. -/

namespace Sys2Proof.Machine

open Host

def exec (i : Instr) (s : State) : Host.Outcome State Fault Refusal :=
  match i with
  | .init => Sys2Proof.Machine.execInit s
  | .push cp => Sys2Proof.Machine.execPush cp s
  | .final => Sys2Proof.Machine.execFinal s

end Sys2Proof.Machine
end

