-- ==== Sys2Proof/Machine/Window.lean ====
section
/-! DEFINITION. The register window (20_memory.md R30 to R37): the register map, which accesses are legal, and what a read returns. -/

namespace Sys2Proof.Machine

/-- The 21 named registers of the window (R31, R32). They are views of the engine's registers, not state (10_state.md R23). -/
inductive WindowReg where
  | cmd
  | status
  | faultInfo
  | countLo
  | countHi
  | digest (q : Fin 4)
  | rdigest (q : Fin 4)
  | key (q : Fin 8)
  deriving DecidableEq, Repr

/-- The offset of a register from `BASE` (R31). -/
def WindowReg.offset : WindowReg → Nat
  | .cmd => 0x00
  | .status => 0x04
  | .faultInfo => 0x08
  | .countLo => 0x10
  | .countHi => 0x14
  | .digest q => 0x20 + 4 * q.val
  | .rdigest q => 0x30 + 4 * q.val
  | .key q => 0x40 + 4 * q.val

/-- The register map (R31), in order of offset. -/
def windowMap : List WindowReg :=
  [.cmd, .status, .faultInfo, .countLo, .countHi,
   .digest 0, .digest 1, .digest 2, .digest 3, .rdigest 0, .rdigest 1, .rdigest 2, .rdigest 3,
   .key 0, .key 1, .key 2, .key 3, .key 4, .key 5, .key 6, .key 7]

/-- The register at an offset of the window; none at a reserved or misaligned offset (R31, R32 (b), (c)). -/
def registerAt (off : Nat) : Option WindowReg := windowMap.find? fun r => r.offset == off

/-- The 32 bits that a read of a register returns (R31, R35). `CMD` reads as zero (10_state.md R22). -/
def readRegister (e : Engine) : WindowReg → Word
  | .cmd => 0x00000000
  | .status => e.status
  | .faultInfo => e.faultInfo
  | .countLo => e.count.extractLsb' 0 32
  | .countHi => e.count.extractLsb' 32 32
  | .digest q => word32 e.digest[4 * q.val] e.digest[4 * q.val + 1] e.digest[4 * q.val + 2] e.digest[4 * q.val + 3]
  | .rdigest q => word32 e.rdigest[4 * q.val] e.rdigest[4 * q.val + 1] e.rdigest[4 * q.val + 2] e.rdigest[4 * q.val + 3]
  | .key q => word32 e.key[4 * q.val] e.key[4 * q.val + 1] e.key[4 * q.val + 2] e.key[4 * q.val + 3]

/-- The byte at an offset of the window (R30, R34): byte `off mod 4` of the register at `off` rounded down to a multiple of 4, none in a
reserved word. No access reads a byte alone (R33); this is how the window is said to be little-endian. -/
def windowByte (e : Engine) (off : Nat) : Option Byte :=
  (registerAt (off - off % 4)).map fun r => (readRegister e r).extractLsb' (8 * (off % 4)) 8

/-- Where the bus takes a host step. -/
inductive Route where
  /-- The reset input (70_reset_and_hazards.md R150). -/
  | reset
  /-- An address outside the window: the engine does not respond (R30). Log entry 5. -/
  | outside (off : Int)
  /-- An access to the window that is not legal (R33). -/
  | illegal (off : Int)
  /-- A legal read (R32, R35). -/
  | read (r : WindowReg)
  /-- The legal write: a command word written to `CMD` (R32 (d), R36). -/
  | command (w : Word)
  deriving DecidableEq, Repr

/-- An address lies in the window (R30): `BASE <= addr < BASE + 128`. An access belongs to the window by its address (log entry 4). -/
def inWindow (off : Int) : Bool := decide (0 ≤ off) && decide (off < Config.window)

/-- The legality of a read of `size` bytes (R32 (a) to (c)). -/
def routeRead (off : Int) (size : Nat) : Route :=
  if inWindow off then
    match size, registerAt off.toNat with
    | 4, some r => .read r
    | _, _ => .illegal off
  else .outside off

/-- The legality of a write of the given bytes (R32 (a) to (d)): four bytes at `CMD`, bits 7:0 of the word at `BASE + 0` (R34). -/
def routeWrite (off : Int) (bytes : List Byte) : Route :=
  if inWindow off then
    match bytes, registerAt off.toNat with
    | [b0, b1, b2, b3], some .cmd => .command (word32 b0 b1 b2 b3)
    | _, _ => .illegal off
  else .outside off

/-- Where the bus takes a host step (R30, R32, R33, R150). -/
def route : HostStep → Route
  | .read off size => routeRead off size
  | .write off bytes => routeWrite off bytes
  | .reset => .reset

end Sys2Proof.Machine
end

