-- ==== Sys2Proof/Machine/Bus.lean ====
section
/-! DEFINITION. The command sequencer and the accesses of the host (40_commands.md R64; 20_memory.md R33, R35, R36). -/

namespace Sys2Proof.Machine

open Host

/-- `Command(w)` (R64): the word is decoded; a command runs, an illegal word is refused by `IllegalCommand`. -/
def command (w : Word) (s : State) : Outcome State Fault Refusal :=
  match decode w with
  | .instr i => exec i s
  | .illegal _ => illegalCommand w s

/-- One host step at the engine, whole (R30, R33, R35, R36, R41, R150). A `CMD` write gets its OK response when the whole effect of the
command is in the state; an access that is not legal gets the error response and changes no register (R33, R134; log entry 3). -/
def perform (h : HostStep) (s : State) : Outcome State Fault Refusal :=
  match route h with
  | .reset => .next (s.withEngine Engine.reset)
  | .outside off => .next (s.respond (.silent off))
  | .illegal off => .next (s.respond (.error off))
  | .read r => .next (s.respond (.data (readRegister s.engine r)))
  | .command w => andThen (command w s) fun t => .next (t.respond .written)

/-- A host step taken off the front of the bus. -/
def State.popPending (s : State) : State := { s with pending := s.pending.tail }

/-- The bus delivers its next step to the engine; with none to deliver nothing changes (R41 (d), R162; log entry 6). -/
def deliver (s : State) : Outcome State Fault Refusal :=
  match s.pending with
  | [] => .next s
  | h :: _ => perform h s.popPending

/-- The write of a command word to `CMD`, as the bus carries it (R34, R36). -/
def commandWrite (w : Word) : HostStep := .write 0 (le32 w).toList

end Sys2Proof.Machine
end

