-- ==== Sys2Proof/Machine/Step.lean ====
section
/-! DEFINITION. The step function: one step of the bus and the engine. -/

namespace Sys2Proof.Machine

open Host

/-- One step (10_state.md R10): the bus delivers the next pending host step, which the engine takes whole. -/
def step (s : State) : Outcome State Fault Refusal := deliver s

/-- The state with the command word `w`, of `nbits` bits, as the next step of the bus: a write of it to `CMD`. The engine fetches no
instructions (R11), so this stands for the host's write (log entry 2). -/
def State.withFetchWord (s : State) (nbits w : Nat) : State :=
  { s with pending := .write 0 (leBytes 4 (w % 2 ^ nbits)) :: s.pending }

end Sys2Proof.Machine
end

