-- ==== Sys2Proof/Machine/Program.lean ====
section
/-! DEFINITION. Host programs: the assembler syntax and the pseudo-instructions (30_encoding.md R58, R59), runs (70_reset_and_hazards.md R162),
and the memory primitives of a host program (00_scope.md R8). -/

namespace Sys2Proof.Machine

open Host

/-! ## Assembler -/

/-- A line of a program text (R58, R59). A quoted character is the number of its code. Log entry 17. -/
inductive SourceLine where
  | init
  | push (cp : Nat)
  | final
  /-- `.word <w>`: any 32-bit word. -/
  | word (w : Nat)
  /-- `RD <reg>`: a host read, not a command word. -/
  | rd (r : WindowReg)
  /-- `PUSHS "…"`. -/
  | pushs (s : List Nat)
  /-- `DERIVE "…"`. -/
  | derive (s : List Nat)
  | rdKey
  | rdDigest
  | rdRdigest
  deriving DecidableEq, Repr

/-- A line is well-formed when every number in it fits its field (R58). -/
def SourceLine.wf : SourceLine → Bool
  | .push cp => codePointOk cp
  | .word w => commandWordOk w
  | .pushs s => s.all codePointOk
  | .derive s => s.all codePointOk
  | .init => true
  | .final => true
  | .rd _ => true
  | .rdKey => true
  | .rdDigest => true
  | .rdRdigest => true

/-- The host's write of a command. -/
def commandStep (i : Instr) : HostStep := commandWrite (encode i)

/-- `RD <reg>`: `MemRead(BASE + offset(<reg>), 4)` (R58). -/
def readStep (r : WindowReg) : HostStep := .read r.offset 4

/-- `PUSH <cp>` as a host step. -/
def pushStep (cp : Nat) : HostStep := commandStep (.push (BitVec.ofNat 21 cp))

/-- The host steps a line stands for: the expansions of R58 and R59, for a well-formed line. -/
def SourceLine.steps : SourceLine → List HostStep
  | .init => [commandStep .init]
  | .push cp => [pushStep cp]
  | .final => [commandStep .final]
  | .word w => [commandWrite (BitVec.ofNat 32 w)]
  | .rd r => [readStep r]
  | .pushs s => s.map pushStep
  | .derive s => commandStep .init :: s.map pushStep ++ [commandStep .final]
  | .rdKey => [readStep (.key 0), readStep (.key 1), readStep (.key 2), readStep (.key 3),
      readStep (.key 4), readStep (.key 5), readStep (.key 6), readStep (.key 7)]
  | .rdDigest => [readStep (.digest 0), readStep (.digest 1), readStep (.digest 2), readStep (.digest 3)]
  | .rdRdigest => [readStep (.rdigest 0), readStep (.rdigest 1), readStep (.rdigest 2), readStep (.rdigest 3)]

/-- The host steps of a program text; none when a line of it is not well-formed. -/
def assemble (p : List SourceLine) : Option (List HostStep) :=
  if p.all SourceLine.wf then some (p.flatMap SourceLine.steps) else none

/-- `DERIVE "s"` (R59) on characters: `INIT`, one `PUSH` per character in string order, `FINAL`. -/
def deriveSteps (s : List CodePoint) : List HostStep :=
  commandStep .init :: s.map (fun c => commandStep (.push c)) ++ [commandStep .final]

/-! ## Runs -/

/-- A run (R162): host steps, legal or not, and reset steps, one after the other; an access that is not legal gets its error response
and the run goes on. -/
def runSteps : List HostStep → State → Outcome State Fault Refusal
  | [], s => .next s
  | h :: hs, s => andThen (perform h s) (runSteps hs)

/-- The run of a host program (60_exceptions.md R134): it faults at the first access that is not legal. Log entry 3. -/
def runProgram : List HostStep → State → Outcome State Fault Refusal
  | [], s => .next s
  | h :: hs, s =>
    match route h with
    | .illegal off => .fault (.accessFault off)
    | _ => andThen (perform h s) (runProgram hs)

/-! ## Memory primitives of a host program (R8) -/

/-- The latest response is an OK response to a write. -/
def writeDone (off : Int) (s : State) : Outcome State Fault Refusal :=
  match s.observed with
  | .written :: _ => .next s
  | .error o :: _ => .fault (.accessFault o)
  | _ => .refused (.outsideWindow off)

/-- `MemWrite(BASE + off, n, v)` by a host program: the bytes of `v`, the lowest first (20_memory.md R34). It faults at an access that is not
legal (60_exceptions.md R134). Log entry 15. -/
def memWrite (off : Int) (n v : Nat) (s : State) : Outcome State Fault Refusal :=
  andThen (perform (.write off (leBytes n v)) s) (writeDone off)

/-- The value of the latest response, a read's 32 bits. -/
def readValue (off : Int) (s : State) : Outcome (State × Word) Fault Refusal :=
  match s.observed with
  | .data v :: _ => .next (s, v)
  | .error o :: _ => .fault (.accessFault o)
  | _ => .refused (.outsideWindow off)

/-- `MemRead(BASE + off, n)` by a host program, with its value (20_memory.md R35). It faults at an access that is not legal.
Log entry 15. -/
def memRead (off : Int) (n : Nat) (s : State) : Outcome (State × Word) Fault Refusal :=
  andThen (perform (.read off n) s) (readValue off)

/-- The distance of a bus address from `BASE` (20_memory.md R30). -/
def offsetOf (addr : Nat) : Int := (addr : Int) - (Config.base : Int)

end Sys2Proof.Machine
end

