-- ==== Sys2Proof/Machine/Driver.lean ====
section
/-! DEFINITION. The driver sequence `HostDerive` (44_host_shell.md R127): how a host obtains `Derive(s)` from the engine. -/

namespace Sys2Proof.Machine

open Host

/-- What `HostDerive` returns (R127). -/
inductive DriverResult where
  /-- `OK(le32(k0) ‖ … ‖ le32(k7))`: 32 character codes. -/
  | ok (key : List Byte)
  /-- `Error(cause = st[11:8], info = FAULTINFO)`. -/
  | error (cause : BitVec 4) (info : Word)
  deriving DecidableEq, Repr

/-- `MemWrite(BASE + 0x20000000 OR cj)` for each character, in string order (R127). -/
def pushAll : List CodePoint → State → Outcome State Fault Refusal
  | [], s => .next s
  | c :: cs, s => andThen (memWrite 0x00 4 (0x20000000 ||| c.setWidth 32 : Word).toNat s) (pushAll cs)

/-- The reads of `KEYq` for the given `q`, each value split into its bytes (R127). -/
def readKeys : List Nat → State → Outcome (State × List Byte) Fault Refusal
  | [], s => .next (s, [])
  | q :: qs, s =>
    andThen (memRead (0x40 + 4 * q) 4 s) fun r =>
      andThen (readKeys qs r.1) fun t => .next (t.1, (le32 r.2).toList ++ t.2)

/-- The end of `HostDerive` once `STATUS` has been read as `st` (R127). -/
def collect (st : Word) (s : State) : Outcome (State × DriverResult) Fault Refusal :=
  if st = 0x00000001 then
    andThen (readKeys [0, 1, 2, 3, 4, 5, 6, 7] s) fun t => .next (t.1, .ok t.2)
  else
    andThen (memRead 0x08 4 s) fun t => .next (t.1, .error (st.extractLsb' 8 4) t.2)

/-- `HostDerive(s)` (R127). -/
def hostDerive (cs : List CodePoint) (s : State) : Outcome (State × DriverResult) Fault Refusal :=
  andThen (memWrite 0x00 4 0x10000000 s) fun s1 =>
    andThen (pushAll cs s1) fun s2 =>
      andThen (memWrite 0x00 4 0x30000000 s2) fun s3 =>
        andThen (memRead 0x04 4 s3) fun t => collect t.2 t.1

end Sys2Proof.Machine
end

