-- ==== Sys2Proof/Machine/Shell.lean ====
section
/-! DEFINITION. The host of the source, its Interactive Shell (44_host_shell.md R115 to R126). It is not part of the engine (00_scope.md R5);
no definition of the engine uses it. Log entry 9. -/

namespace Sys2Proof.Machine

open Host

/-- The states of the shell (R120, 90_conflicts.md C4). -/
inductive ShellState where
  | awaitingInput
  | rejectedInput
  | done
  deriving DecidableEq, Repr

/-- What the shell puts out (R116, R117, R119, R122). -/
inductive ShellOutput where
  /-- The prompt, on its own channel or on standard output (R116). -/
  | prompt (text : List CodePoint)
  /-- One line on standard output (R117, R119, 90_conflicts.md C1). -/
  | line (text : List CodePoint)
  /-- The diagnostic of the Encoding-error path (R122). -/
  | trace (text : List CodePoint)
  deriving DecidableEq, Repr

/-- One run of the shell: what it put out, the states it went through, its exit status. -/
structure ShellRun where
  output : List ShellOutput
  path : List ShellState
  exitStatus : Int
  deriving DecidableEq, Repr

/-- Trimming (R116): whitespace is taken off the two ends only. -/
def trim (line : List CodePoint) : List CodePoint :=
  ((line.dropWhile Config.isWhitespace).reverse.dropWhile Config.isWhitespace).reverse

/-- The length gate (R117): exactly 16 characters. -/
def lengthGate (s : List CodePoint) : Bool := s.length == 16

/-- The output line (R119): the label, a colon, one space, the characters of the key. -/
def labelLine (key : List Byte) : List CodePoint :=
  Config.label ++ [0x3A, 0x20] ++ key.map (fun b => b.setWidth 21)

/-- The run on the validation-failure path (R117, R120, R121). -/
def rejectedRun : ShellRun :=
  ⟨[.prompt Config.prompt, .line Config.lengthErrorMessage], [.awaitingInput, .rejectedInput, .done], 0⟩

/-- The run once the driver has answered: the labeled line and status 0 (R119 to R121), or the unhandled fault, which ends the process from
inside step 3 without reaching `Done` (R120, R122). -/
def answeredRun : DriverResult → ShellRun
  | .ok key => ⟨[.prompt Config.prompt, .line (labelLine key)], [.awaitingInput, .done], 0⟩
  | .error _ _ => ⟨[.prompt Config.prompt, .trace Config.encodingFaultTrace], [.awaitingInput], Config.encodingFaultExit⟩

/-- The shell on one line of input, its line terminator already removed (R115 to R119, R122): one cycle, no loop, no retry. -/
def shell (line : List CodePoint) (s : State) : Outcome (State × ShellRun) Fault Refusal :=
  if lengthGate (trim line) then
    andThen (hostDerive (trim line) s) fun t => .next (t.1, answeredRun t.2)
  else .next (s, rejectedRun)

end Sys2Proof.Machine
end

