-- ==== Sys2Proof/Machine/Derive.lean ====
section
/-! DEFINITION. The function level (40_commands.md R61 to R63): what the engine computes, without registers. The step function does not use
these definitions; R70 says that the two levels agree. -/

namespace Sys2Proof.Machine

/-- The one error of the function (R63): a character at or above 128. -/
inductive DeriveError where
  | encodingError
  deriving DecidableEq, Repr

/-- `AsciiEncode(s)` (R62): one byte per character, all or nothing. -/
def asciiEncode (s : List CodePoint) : Except DeriveError (List Byte) :=
  if s.all isAscii then .ok (s.map codePointByte) else .error .encodingError

/-- `HexLower(ReverseBytes(MD5(m)))`: the key of a message of bytes (R63). -/
def keyOf (m : List Byte) : Key := hexLower (reverseBytes (md5 m))

/-- `Derive(s)` (R63), for a sequence of characters of any length. -/
def derive (s : List CodePoint) : Except DeriveError Key :=
  match asciiEncode s with
  | .error e => .error e
  | .ok m => .ok (keyOf m)

end Sys2Proof.Machine
end

