-- ==== Sys2Proof/Safety.lean ====
section
/-! DEFINITION. What counts as a sound state and a safe run, in the terms the claims use (10_state.md R28, 40_commands.md R70). -/

namespace Sys2Proof

open Machine

/-- R28 (b): a cause is recorded exactly in phase `FAULT`. -/
abbrev CauseExactlyInFault (e : Engine) : Prop := e.cause ≠ .none ↔ e.phase = .fault

/-- R28 (c): no fault information outside phase `FAULT`. -/
abbrev NoInfoOutsideFault (e : Engine) : Prop := e.phase ≠ .fault → e.faultInfo = 0

/-- `DIGEST`, `RDIGEST` and `KEY` are all zero. -/
abbrev OutputsZero (e : Engine) : Prop :=
  e.digest = Vector.replicate 16 0 ∧ e.rdigest = Vector.replicate 16 0 ∧ e.key = Vector.replicate 32 0

/-- R28 (d): the outputs are zero unless a message is finished. -/
abbrev OutputsOnlyWhenDone (e : Engine) : Prop := e.phase ≠ .done → OutputsZero e

/-- R28 (e): in phase `DONE` the three output registers belong together and every character of the key is a lowercase hexadecimal digit. -/
abbrev OutputsAgreeWhenDone (e : Engine) : Prop :=
  e.phase = .done →
    (∀ i : Fin 16, e.rdigest[i.val] = e.digest[15 - i.val]) ∧
    (∀ i : Fin 16, e.key[2 * i.val] = hexDigit (e.rdigest[i.val].extractLsb' 4 4) ∧
      e.key[2 * i.val + 1] = hexDigit (e.rdigest[i.val].extractLsb' 0 4)) ∧
    (∀ j : Fin 32, isHexChar e.key[j.val] = true)

/-- R28 (f), the part that speaks of one state: in phase `ABSORB` every byte of the message still in the buffer is below 128. -/
abbrev BufferedBytesAscii (e : Engine) : Prop :=
  e.phase = .absorb → ∀ j : Fin 64, j.val < e.count.toNat % 64 → e.buf[j.val].toNat < 128

/-- The invariants of R28 that speak of one state; (a) holds by the type `Phase`. -/
structure EngineSound (e : Engine) : Prop where
  cause : CauseExactlyInFault e
  info : NoInfoOutsideFault e
  outputsZero : OutputsOnlyWhenDone e
  outputsAgree : OutputsAgreeWhenDone e
  bufferedAscii : BufferedBytesAscii e

/-- The state after a message has been absorbed from the `INIT` state, byte by byte (40_commands.md R68). -/
def absorbAll (m : List Byte) : Engine := m.foldl Engine.absorb Engine.reset

/-- Every byte of a message is below 128 (R28 (f)). -/
abbrev AsciiMessage (m : List Byte) : Prop := ∀ b ∈ m, b.toNat < 128

/-- What the registers say of the message absorbed since the last `INIT` or reset (R16, R28, R70): in phase `ABSORB` they are those of
absorbing a message of bytes below 128; in phase `DONE` the outputs are the MD5 digest of one, its reversal and its key; in phase `FAULT` there
is no output. -/
def ShowsMessage (e : Engine) : Prop :=
  match e.phase with
  | .absorb => ∃ m, AsciiMessage m ∧ e = absorbAll m
  | .done => ∃ m, AsciiMessage m ∧ e.digest = md5 m ∧ e.rdigest = reverseBytes (md5 m) ∧ e.key = keyOf m ∧
      e.count = BitVec.ofNat 64 m.length
  | .fault => OutputsZero e

/-- The host steps of a run that a safe host program makes (R134): none of them is an access that is not legal. -/
def SafeProgram (p : List HostStep) : Prop := ∀ h ∈ p, ∀ off, route h ≠ .illegal off

/-- The characters of the spec's example lines: the first `n` letters, 'A' onward (95_test_vectors.md T5, H7, H8). -/
def letters (n : Nat) : List CodePoint := (List.range n).map fun i => BitVec.ofNat 21 (0x41 + i)

end Sys2Proof
end

