-- ==== Sys2Proof/Certificates/Slice0/Obligations.lean ====
section
/-! DEFINITION. The statements for the provers. Each docstring names the rule of the spec it formalises, or the sections it rests on. -/

open Host Sys2Proof Sys2Proof.Machine

/-! ## Encoding -/

/-- 30_encoding.md R53, 95_test_vectors.md section 2: words written out bit by bit, and what they are. -/
def Obligations.WrittenOutWordsDecode : Prop :=
  decode 0b00010000000000000000000000000000#32 = .instr .init ∧
  decode 0b00100000000000000000000001000001#32 = .instr (.push 0x41) ∧
  decode 0b00100000000111111111111111111111#32 = .instr (.push 0x1FFFFF) ∧
  decode 0b00110000000000000000000000000000#32 = .instr .final ∧
  decodeBytes [0x41, 0x00, 0x00, 0x20] = .instr (.push 0x41) ∧
  decode 0b00000000000000000000000000000000#32 = .illegal .reservedOpcode ∧
  decode 0b01000000000000000000000000000000#32 = .illegal .reservedOpcode ∧
  decode 0b00100000001000000000000001000001#32 = .illegal .reservedBits ∧
  decode 0b00010000000000000000000000000001#32 = .illegal .codePointBits ∧
  decode 0b00110000000000000000000000000001#32 = .illegal .codePointBits

/-- Decode and encode agree, on words and on the bytes in bus order (30_encoding.md sections 1 and 2, 20_memory.md section 2). -/
def Obligations.DecodeOfEncode : Prop :=
  ∀ i : Instr, i.wf = true → decode (encode i) = .instr i ∧ decodeBytes (encodeBytes i) = .instr i

/-- Each legal word has one meaning and is the encoding of it (30_encoding.md section 2). -/
def Obligations.EncodeOfDecode : Prop :=
  ∀ (w : Word) (i : Instr), decode w = .instr i → i.wf = true ∧ encode i = w

/-- R53: the three rows by match and mask, no two of them overlap, the reserved opcodes, and exactly 2 + 2^21 legal words. -/
def Obligations.OpcodeMapComplete : Prop :=
  (∀ w : Word, decode w = .instr .init ↔ w &&& 0xFFFFFFFF = 0x10000000) ∧
  (∀ (w : Word) (cp : CodePoint),
    decode w = .instr (.push cp) ↔ (w &&& 0xFFE00000 = 0x20000000 ∧ cp = w.extractLsb' 0 21)) ∧
  (∀ w : Word, decode w = .instr .final ↔ w &&& 0xFFFFFFFF = 0x30000000) ∧
  (∀ w : Word, (w.extractLsb' 28 4 = 0 ∨ 4 ≤ (w.extractLsb' 28 4).toNat) → ∃ why, decode w = .illegal why) ∧
  (∀ w : Word, (∃ i, decode w = .instr i) ↔
    (w = 0x10000000 ∨ w = 0x30000000 ∨ (0x20000000 ≤ w.toNat ∧ w.toNat ≤ 0x201FFFFF))) ∧
  Nat.card {w : Word // ∃ i, decode w = .instr i} = 2 + 2 ^ 21

/-- R55: which words are illegal, by their fields; what writing one does in each phase; and that every word has a defined behaviour
in every phase. -/
def Obligations.IllegalWordsByField : Prop :=
  (∀ w : Word, (∃ why, decode w = .illegal why) ↔
    (w.extractLsb' 28 4 = 0 ∨ 4 ≤ (w.extractLsb' 28 4).toNat ∨ w.extractLsb' 21 7 ≠ 0 ∨
      ((w.extractLsb' 28 4 = 1 ∨ w.extractLsb' 28 4 = 3) ∧ w.extractLsb' 0 21 ≠ 0))) ∧
  (∃ why, decode 0x00000000 = .illegal why) ∧ (∃ why, decode 0xFFFFFFFF = .illegal why) ∧
  (∀ (w : Word) (why : IllegalWord) (s : State), decode w = .illegal why →
    perform (commandWrite w) s =
      .next { s with
        engine := if s.engine.phase = .fault then s.engine else s.engine.enterFault .illegalCommand w
        observed := .written :: s.observed }) ∧
  (∀ (w : Word) (s : State), ∃ t, perform (commandWrite w) s = .next t)

/-- R56: the `PUSH` words with `cp >= 128` are legal encodings whose execution raises `EncodingError`. -/
def Obligations.NonAsciiPushIsLegalAndFaults : Prop :=
  ∀ w : Word, 0x20000080 ≤ w.toNat → w.toNat ≤ 0x201FFFFF →
    decode w = .instr (.push (w.extractLsb' 0 21)) ∧
    ∀ s : State, s.engine.phase = .absorb →
      exec (.push (w.extractLsb' 0 21)) s = .next { s with engine := s.engine.enterFault .encodingError w } ∧
      perform (commandWrite w) s =
        .next { s with engine := s.engine.enterFault .encodingError w, observed := .written :: s.observed }

/-- `DERIVE "s"` assembles to its expansion (30_encoding.md section 4). That a line with a number outside the range its field has there
does not assemble is the model's reading (log entry 17). -/
def Obligations.DeriveLineAssembles : Prop :=
  (∀ s : List CodePoint, assemble [.derive (s.map BitVec.toNat)] = some (deriveSteps s)) ∧
  (∀ s : List CodePoint,
    assemble (.init :: s.map (fun c => .push c.toNat) ++ [.final]) = some (deriveSteps s)) ∧
  (∀ n : Nat, 0x1FFFFF < n → assemble [.push n] = none) ∧
  (∀ n : Nat, 0xFFFFFFFF < n → assemble [.word n] = none)

/-! ## Reset and INIT -/

/-- R29, R150: the reset table, and the reset input at any moment. -/
def Obligations.ResetRegisterValues : Prop :=
  State.reset.engine =
    { a := 0x67452301, b := 0xEFCDAB89, c := 0x98BADCFE, d := 0x10325476
      phase := .absorb, cause := .none, faultInfo := 0x00000000, count := 0
      buf := Vector.replicate 64 0x00, digest := Vector.replicate 16 0x00, rdigest := Vector.replicate 16 0x00
      key := Vector.replicate 32 0x00 } ∧
  State.reset.engine.status = 0x00000000 ∧
  (∀ s : State, exec .init s = .next { s with engine := State.reset.engine }) ∧
  (∀ s : State, perform .reset s = .next { s with engine := State.reset.engine })

/-- R65: `INIT` completes in every phase with every register at the value the rule gives, and a word with `op = 1` and any other bit
set is not `INIT`. -/
def Obligations.InitStartsMessage : Prop :=
  (∀ s : State, exec .init s = .next
    { s with engine :=
      { a := 0x67452301, b := 0xEFCDAB89, c := 0x98BADCFE, d := 0x10325476
        phase := .absorb, cause := .none, faultInfo := 0x00000000, count := 0
        buf := Vector.replicate 64 0x00, digest := Vector.replicate 16 0x00, rdigest := Vector.replicate 16 0x00
        key := Vector.replicate 32 0x00 } }) ∧
  (∀ s t : State, exec .init s = .next t → t.engine.status = 0 ∧ exec .init t = .next t) ∧
  (∀ w : Word, w.extractLsb' 28 4 = 1 → w.extractLsb' 0 28 ≠ 0 → ∃ why, decode w = .illegal why)

/-! ## PUSH -/

/-- R68, with the frame of `PUSH`: an accepted character goes to the fill index, `COUNT` grows by 1 modulo 2^64, a full buffer is
compressed and kept, and nothing else changes. -/
def Obligations.PushAbsorbsCharacter : Prop :=
  ∀ (cp : CodePoint) (s : State), cp.toNat < 128 → s.engine.phase = .absorb →
    ∃ t, exec (.push cp) s = .next t ∧
      (∀ j : Fin 64, t.engine.buf[j.val] =
        if j.val = s.engine.count.toNat % 64 then BitVec.ofNat 8 cp.toNat else s.engine.buf[j.val]) ∧
      t.engine.count.toNat = (s.engine.count.toNat + 1) % 2 ^ 64 ∧
      t.engine.chain =
        (if s.engine.count.toNat % 64 = 63 then compressF s.engine.chain t.engine.buf else s.engine.chain) ∧
      t.engine.phase = s.engine.phase ∧ t.engine.cause = s.engine.cause ∧
      t.engine.faultInfo = s.engine.faultInfo ∧ t.engine.digest = s.engine.digest ∧
      t.engine.rdigest = s.engine.rdigest ∧ t.engine.key = s.engine.key ∧
      (∀ r : WindowReg, r ≠ .countLo → r ≠ .countHi → readRegister t.engine r = readRegister s.engine r) ∧
      t.pending = s.pending ∧ t.observed = s.observed

/-- R133: a legal `PUSH`, with any `cp`, or a legal `FINAL` in phase `DONE` is a `SequenceError` that records the word and clears the
outputs; the registers behind them keep their values. -/
def Obligations.ContinuingAFinishedMessageFaults : Prop :=
  ∀ (i : Instr) (s : State), i ≠ .init → s.engine.phase = .done →
    ∃ t, exec i s = .next t ∧ t.engine.phase = .fault ∧ t.engine.cause = .sequenceError ∧
      t.engine.faultInfo = encode i ∧ OutputsZero t.engine ∧ t.engine.chain = s.engine.chain ∧
      t.engine.buf = s.engine.buf ∧ t.engine.count = s.engine.count ∧ t.engine.status = 0x00000302 ∧
      t.pending = s.pending ∧ t.observed = s.observed

/-! ## FINAL -/

/-- R93, with the frame of `FINAL`: in phase `ABSORB` it completes; the digest is the four words of the new chaining value, least
significant byte first; the reversed digest and the key follow from it; `COUNT`, `CAUSE` and `FAULTINFO` keep their values. -/
def Obligations.FinalWritesOutputs : Prop :=
  ∀ s : State, s.engine.phase = .absorb →
    ∃ t, exec .final s = .next t ∧
      (∀ q r : Fin 4, t.engine.digest[4 * q.val + r.val] =
        (#v[t.engine.a, t.engine.b, t.engine.c, t.engine.d][q.val]).extractLsb' (8 * r.val) 8) ∧
      (∀ i : Fin 16, t.engine.rdigest[i.val] = t.engine.digest[15 - i.val]) ∧
      (∀ i : Fin 16, t.engine.key[2 * i.val] = hexDigit (t.engine.rdigest[i.val].extractLsb' 4 4) ∧
        t.engine.key[2 * i.val + 1] = hexDigit (t.engine.rdigest[i.val].extractLsb' 0 4)) ∧
      t.engine.phase = .done ∧ t.engine.count = s.engine.count ∧ t.engine.cause = s.engine.cause ∧
      t.engine.faultInfo = s.engine.faultInfo ∧ t.pending = s.pending ∧ t.observed = s.observed

/-- R92: the padding in place and the one or two compressions, byte by byte. -/
def Obligations.FinalPadsInPlace : Prop :=
  ∀ s : State, s.engine.phase = .absorb →
    ∃ t, exec .final s = .next t ∧ t.engine.count = s.engine.count ∧
      (s.engine.count.toNat % 64 ≤ 55 →
        t.engine.chain = compressF s.engine.chain t.engine.buf ∧
        ∀ j : Fin 64, t.engine.buf[j.val] =
          if j.val < s.engine.count.toNat % 64 then s.engine.buf[j.val]
          else if j.val = s.engine.count.toNat % 64 then 0x80
          else if j.val < 56 then 0x00
          else (BitVec.ofNat 64 (8 * s.engine.count.toNat)).extractLsb' (8 * (j.val - 56)) 8) ∧
      (56 ≤ s.engine.count.toNat % 64 →
        ∃ p : Block, t.engine.chain = compressF (compressF s.engine.chain p) t.engine.buf ∧
          (∀ j : Fin 64, p[j.val] =
            if j.val < s.engine.count.toNat % 64 then s.engine.buf[j.val]
            else if j.val = s.engine.count.toNat % 64 then 0x80 else 0x00) ∧
          ∀ j : Fin 64, t.engine.buf[j.val] =
            if j.val < 56 then 0x00
            else (BitVec.ofNat 64 (8 * s.engine.count.toNat)).extractLsb' (8 * (j.val - 56)) 8)

/-! ## Faults -/

/-- R136: fault entry, what it writes, what it keeps, what `STATUS` reads; that no later fault overwrites the record; and that the `CMD` write
itself always gets its OK response. -/
def Obligations.FaultEntry : Prop :=
  (∀ (e : Engine) (c : Cause) (w : Word), c ≠ .none →
    (e.enterFault c w).phase = .fault ∧ (e.enterFault c w).cause = c ∧ (e.enterFault c w).faultInfo = w ∧
    OutputsZero (e.enterFault c w) ∧ (e.enterFault c w).chain = e.chain ∧ (e.enterFault c w).buf = e.buf ∧
    (e.enterFault c w).count = e.count ∧
    (e.enterFault c w).status = 0x00000002 ||| (c.code.setWidth 32 <<< 8)) ∧
  (∀ (x : HostStep) (s t : State), perform x s = .next t → s.engine.phase = .fault →
    (t.engine.cause = s.engine.cause ∧ t.engine.faultInfo = s.engine.faultInfo) ∨ t.engine = State.reset.engine) ∧
  (∀ (w : Word) (s : State), ∃ e : Engine,
    perform (commandWrite w) s = .next { s with engine := e, observed := .written :: s.observed })

/-- R137: the priority of the conditions that can apply to one write. -/
def Obligations.FaultPriority : Prop :=
  (∀ (off : Int) (bytes : List Byte) (s : State), 0 ≤ off → off < 128 → (off ≠ 0 ∨ bytes.length ≠ 4) →
    perform (.write off bytes) s = .next { s with observed := .error off :: s.observed }) ∧
  (∀ s : State, perform (commandWrite 0x10000000) s =
    .next { s with engine := State.reset.engine, observed := .written :: s.observed }) ∧
  (∀ (w : Word) (s : State), w ≠ 0x10000000 →
    perform (commandWrite w) s = .next
      { s with
        engine :=
          if s.engine.phase = .fault then s.engine
          else if legalWord w = false then s.engine.enterFault .illegalCommand w
          else if s.engine.phase = .done then s.engine.enterFault .sequenceError w
          else if w = 0x30000000 then s.engine.finish
          else if 128 ≤ (w.extractLsb' 0 21).toNat then s.engine.enterFault .encodingError w
          else s.engine.absorb (w.extractLsb' 0 8)
        observed := .written :: s.observed })

/-- R140: in phase `FAULT` any number of words other than `INIT` changes no register, and an access fault changes none either. -/
def Obligations.FaultPhaseIgnoresCommands : Prop :=
  (∀ (ws : List Word) (s : State), s.engine.phase = .fault → (∀ w ∈ ws, w ≠ 0x10000000) →
    runSteps (ws.map commandWrite) s =
      .next { s with observed := List.replicate ws.length .written ++ s.observed }) ∧
  (∀ (x : HostStep) (off : Int) (s : State), s.engine.phase = .fault → route x = .illegal off →
    perform x s = .next { s with observed := .error off :: s.observed })

/-- R139: the only ways out of phase `FAULT`, and what they leave. -/
def Obligations.FaultReturn : Prop :=
  (∀ (x : HostStep) (s t : State), perform x s = .next t → s.engine.phase = .fault → t.engine.phase ≠ .fault →
    (x = .reset ∨ route x = .command 0x10000000) ∧ t.engine = State.reset.engine) ∧
  (∀ s : State, s.engine.phase = .fault →
    perform (commandWrite 0x10000000) s =
      .next { s with engine := State.reset.engine, observed := .written :: s.observed } ∧
    perform .reset s = .next { s with engine := State.reset.engine })

/-! ## The register window -/

/-- R32: the legal accesses, the named offsets, and the number of the named registers. -/
def Obligations.LegalAccessesExactly : Prop :=
  (∀ (off : Int) (size : Nat) (r : WindowReg), route (.read off size) = .read r ↔ (size = 4 ∧ off = r.offset)) ∧
  (∀ (off : Int) (bytes : List Byte) (w : Word),
    route (.write off bytes) = .command w ↔ (off = 0 ∧ bytes = (le32 w).toList)) ∧
  (∀ n : Nat, (∃ r : WindowReg, r.offset = n) ↔
    (n % 4 = 0 ∧ (n ≤ 0x08 ∨ n = 0x10 ∨ n = 0x14 ∨ (0x20 ≤ n ∧ n ≤ 0x5C)))) ∧
  (∀ r r' : WindowReg, r.offset = r'.offset → r = r') ∧
  windowMap.length = 21 ∧ windowMap.Nodup ∧ ∀ r : WindowReg, r ∈ windowMap

/-- R33, R134: an access to the window that is not legal gets the error response and changes no register; a host program faults at it. -/
def Obligations.IllegalAccessChangesNothing : Prop :=
  (∀ (off : Int) (size : Nat) (s : State) (rest : List HostStep), 0 ≤ off → off < 128 →
    (size ≠ 4 ∨ off % 4 ≠ 0 ∨ off = 0x0C ∨ off = 0x18 ∨ off = 0x1C ∨ 0x60 ≤ off) →
    perform (.read off size) s = .next { s with observed := .error off :: s.observed } ∧
    runProgram (.read off size :: rest) s = .fault (.accessFault off)) ∧
  (∀ (off : Int) (bytes : List Byte) (s : State) (rest : List HostStep), 0 ≤ off → off < 128 →
    (bytes.length ≠ 4 ∨ off ≠ 0) →
    perform (.write off bytes) s = .next { s with observed := .error off :: s.observed } ∧
    runProgram (.write off bytes :: rest) s = .fault (.accessFault off))

/-- A host program without an access that is not legal never faults, and its run is the run of its steps (60_exceptions.md section 1,
70_reset_and_hazards.md section 5). -/
def Obligations.SafeProgramsComplete : Prop :=
  ∀ (p : List HostStep) (s : State), SafeProgram p →
    ∃ t, runProgram p s = .next t ∧ runSteps p s = .next t

/-- An access outside the window is not answered and changes no register (20_memory.md section 1). An access belongs to the window by its
lowest address, also where it reaches across an end of it: the model's reading (log entry 4). The record `silent` is the model's (log
entry 5). -/
def Obligations.OutsideWindowNotAnswered : Prop :=
  ∀ (off : Int) (s : State), (off < 0 ∨ 128 ≤ off) →
    (∀ size, perform (.read off size) s = .next { s with observed := .silent off :: s.observed }) ∧
    (∀ bytes, perform (.write off bytes) s = .next { s with observed := .silent off :: s.observed })

/-- R34: the window is little-endian, for the bytes of every register, and for the command word; no narrower or wider read sees part of a
register. -/
def Obligations.WindowIsLittleEndian : Prop :=
  (∀ (e : Engine) (r : WindowReg) (k : Fin 4),
    windowByte e (r.offset + k.val) = some ((readRegister e r).extractLsb' (8 * k.val) 8)) ∧
  (∀ (e : Engine) (i : Fin 16), windowByte e (0x20 + i.val) = some e.digest[i.val]) ∧
  (∀ (e : Engine) (i : Fin 16), windowByte e (0x30 + i.val) = some e.rdigest[i.val]) ∧
  (∀ (e : Engine) (j : Fin 32), windowByte e (0x40 + j.val) = some e.key[j.val]) ∧
  (∀ (e : Engine) (k : Fin 8), windowByte e (0x10 + k.val) = some (e.count.extractLsb' (8 * k.val) 8)) ∧
  (∀ b0 b1 b2 b3 : Byte, ∃ w : Word, route (.write 0 [b0, b1, b2, b3]) = .command w ∧
    w.extractLsb' 0 8 = b0 ∧ w.extractLsb' 8 8 = b1 ∧ w.extractLsb' 16 8 = b2 ∧ w.extractLsb' 24 8 = b3) ∧
  (∀ (off : Int) (size : Nat) (r : WindowReg), size ≠ 4 → route (.read off size) ≠ .read r)

/-- R35: a legal read returns the value of the register at that moment and changes no register; read again it returns the same. What `CMD`,
`STATUS` and `FAULTINFO` return at their offsets (10_state.md sections 4 and 6; the other registers: WindowIsLittleEndian). -/
def Obligations.ReadsHaveNoEffect : Prop :=
  (∀ (r : WindowReg) (s : State),
    perform (.read r.offset 4) s = .next { s with observed := .data (readRegister s.engine r) :: s.observed } ∧
    runSteps [.read r.offset 4, .read r.offset 4] s =
      .next { s with
        observed := .data (readRegister s.engine r) :: .data (readRegister s.engine r) :: s.observed }) ∧
  (∀ e : Engine, readRegister e .cmd = 0x00000000 ∧ readRegister e .status = e.status ∧
    readRegister e .faultInfo = e.faultInfo) ∧
  (∀ s : State,
    perform (.read 0x00 4) s = .next { s with observed := .data 0x00000000 :: s.observed } ∧
    perform (.read 0x04 4) s = .next { s with observed := .data s.engine.status :: s.observed } ∧
    perform (.read 0x08 4) s = .next { s with observed := .data s.engine.faultInfo :: s.observed })

/-- R36: the write of a word to `CMD` runs the command, always completes with an OK response, and a following read sees what it left;
writing a `PUSH` twice absorbs two bytes. -/
def Obligations.CommandWriteCompletes : Prop :=
  (∀ (w : Word) (s : State), ∃ e : Engine,
    command w s = .next { s with engine := e } ∧
    perform (commandWrite w) s = .next { s with engine := e, observed := .written :: s.observed } ∧
    ∀ r : WindowReg, runSteps [commandWrite w, .read r.offset 4] s =
      .next { s with engine := e, observed := .data (readRegister e r) :: .written :: s.observed }) ∧
  (∀ (cp : CodePoint) (s : State), cp.toNat < 128 → s.engine.phase = .absorb →
    ∃ t, runSteps [commandStep (.push cp), commandStep (.push cp)] s = .next t ∧
      t.engine.phase = .absorb ∧ t.engine.count = s.engine.count + 2)

/-- R21: `STATUS` bit by bit, the values it can read, and that it cannot be written. -/
def Obligations.StatusView : Prop :=
  (∀ e : Engine,
    (e.status.getLsbD 0 = true ↔ e.phase = .done) ∧ (e.status.getLsbD 1 = true ↔ e.phase = .fault) ∧
    e.status.extractLsb' 2 6 = 0 ∧ e.status.extractLsb' 8 4 = e.cause.code ∧ e.status.extractLsb' 12 20 = 0) ∧
  State.reset.engine.status = 0 ∧
  (∀ e : Engine, CauseExactlyInFault e →
    e.status ∈ [0x00000000, 0x00000001, 0x00000102, 0x00000202, (0x00000302 : Word)]) ∧
  (∀ (bytes : List Byte) (s : State),
    perform (.write 0x04 bytes) s = .next { s with observed := .error 0x04 :: s.observed })

/-- R146: an output register read outside phase `DONE` returns zero and no fault, `INIT` is never a fault, and `FINAL` with no `PUSH` before it
hashes the empty message. -/
def Obligations.NotAFault : Prop :=
  (∀ (s : State) (r : WindowReg), EngineSound s.engine → s.engine.phase ≠ .done →
    ((∃ q, r = .digest q) ∨ (∃ q, r = .rdigest q) ∨ (∃ q, r = .key q)) →
    perform (.read r.offset 4) s = .next { s with observed := .data 0 :: s.observed }) ∧
  (∀ s : State, ∃ t, exec .init s = .next t ∧ t.engine.phase = .absorb ∧ t.engine.cause = .none) ∧
  (∀ s : State, s.engine = State.reset.engine →
    ∃ t, exec .final s = .next t ∧ t.engine.phase = .done ∧ t.engine.digest = md5 [] ∧ t.engine.key = keyOf [])

/-! ## The step -/

/-- One step on a pending command write runs the decoded command, then gives the OK response (20_memory.md section 2, 40_commands.md
section 2). -/
def Obligations.StepRunsDecodedCommand : Prop :=
  ∀ (s : State) (w : Word) (i : Instr) (rest : List HostStep),
    s.pending = commandWrite w :: rest → decode w = .instr i →
    step s = andThen (exec i { s with pending := rest }) fun t => .next { t with observed := .written :: t.observed }

/-- The step on a state with a word placed for it runs the instruction that the decoder reads from that word (the model's choice of
how a command reaches the engine, log entry 2; 20_memory.md section 2). -/
def Obligations.PlacedWordRuns : Prop :=
  ∀ (s : State) (w : Nat) (i : Instr), decodeTableWord 32 w = some i →
    step (s.withFetchWord 32 w) = andThen (exec i s) fun t => .next { t with observed := .written :: t.observed }

/-- The engine never stops: every step answers a next state (30_encoding.md section 3, 70_reset_and_hazards.md section 5). With no host step
pending nothing changes, which is the model's choice (log entry 6). -/
def Obligations.StepNeverStops : Prop :=
  (∀ s : State, ∃ t, step s = .next t) ∧ ∀ s : State, s.pending = [] → step s = .next s

/-- Nothing but a command write or the reset input changes any register (20_memory.md section 4). -/
def Obligations.OnlyCommandsAndResetChangeRegisters : Prop :=
  ∀ s t : State, step s = .next t → t.engine ≠ s.engine →
    ∃ x rest, s.pending = x :: rest ∧ t.pending = rest ∧ (x = .reset ∨ ∃ w, x = commandWrite w)

/-- `COUNT` changes only by an accepted `PUSH`, which adds 1, and by `INIT` and reset, which clear it (10_state.md section 4). -/
def Obligations.CountChangesOnlyByPushInitReset : Prop :=
  ∀ s t : State, step s = .next t → t.engine.count ≠ s.engine.count →
    (t.engine.count = s.engine.count + 1 ∧ s.engine.phase = .absorb ∧
      ∃ (cp : CodePoint) (rest : List HostStep), cp.toNat < 128 ∧ s.pending = commandStep (.push cp) :: rest) ∨
    (t.engine.count = 0 ∧ t.engine = State.reset.engine ∧
      ∃ rest : List HostStep, s.pending = .reset :: rest ∨ s.pending = commandStep .init :: rest)

/-- The outputs change only by a completed `FINAL`, or to zero (10_state.md section 5). -/
def Obligations.OutputsChangeOnlyByFinalOrToZero : Prop :=
  ∀ s t : State, step s = .next t →
    (t.engine.digest ≠ s.engine.digest ∨ t.engine.rdigest ≠ s.engine.rdigest ∨ t.engine.key ≠ s.engine.key) →
    OutputsZero t.engine ∨
    (s.engine.phase = .absorb ∧ t.engine.phase = .done ∧ ∃ rest, s.pending = commandStep .final :: rest)

/-! ## Invariants -/

/-- The reset state is sound (10_state.md section 10). -/
def Obligations.ResetIsSound : Prop := EngineSound State.reset.engine

/-- Every step keeps the invariants that speak of one state (10_state.md section 10). -/
def Obligations.StepKeepsSound : Prop :=
  ∀ s t : State, EngineSound s.engine → step s = .next t → EngineSound t.engine

/-- The reset state shows the empty message (10_state.md section 10). -/
def Obligations.ResetShowsMessage : Prop := ShowsMessage State.reset.engine

/-- Every step keeps it that the registers show an ASCII message: no key is ever shown that is not the key of one (10_state.md
section 10, 40_commands.md section 7). -/
def Obligations.StepKeepsShowsMessage : Prop :=
  ∀ s t : State, ShowsMessage s.engine → step s = .next t → ShowsMessage t.engine

/-- The buffer holds the last `COUNT mod 64` bytes of the message (10_state.md section 10). -/
def Obligations.BufferHoldsMessageTail : Prop :=
  ∀ m : List Byte,
    (absorbAll m).count = BitVec.ofNat 64 m.length ∧ (absorbAll m).phase = .absorb ∧
    ∀ j : Fin 64, j.val < m.length % 64 →
      m[m.length - m.length % 64 + j.val]? = some (absorbAll m).buf[j.val]

/-! ## The MD5 unit -/

/-- R84: the four functions bit by bit, `G` by `F`, and the rule's examples. -/
def Obligations.AuxiliaryFunctionsBitwise : Prop :=
  (∀ (x y z : Word) (k : Fin 32),
    (auxF x y z).getLsbD k.val = (if x.getLsbD k.val then y.getLsbD k.val else z.getLsbD k.val) ∧
    (auxG x y z).getLsbD k.val = (if z.getLsbD k.val then x.getLsbD k.val else y.getLsbD k.val) ∧
    (auxH x y z).getLsbD k.val = ((x.getLsbD k.val != y.getLsbD k.val) != z.getLsbD k.val) ∧
    (auxI x y z).getLsbD k.val = (y.getLsbD k.val != (x.getLsbD k.val || !z.getLsbD k.val))) ∧
  (∀ x y z : Word, auxG x y z = auxF z x y) ∧
  auxF 0xEFCDAB89 0x98BADCFE 0x10325476 = 0x98BADCFE ∧ auxG 0xEFCDAB89 0x98BADCFE 0x10325476 = 0x88888888 ∧
  auxH 0xEFCDAB89 0x98BADCFE 0x10325476 = 0x67452301 ∧ auxI 0xEFCDAB89 0x98BADCFE 0x10325476 = 0x77777777

/-- The tables `K` and `S` by their formulas, the range of `S`, and `K` a permutation in each round (41_md5_engine.md section 6). -/
def Obligations.StepTablesByFormula : Prop :=
  (∀ i : Fin 64,
    stepK i.val = (if i.val / 16 = 0 then i.val else if i.val / 16 = 1 then (5 * i.val + 1) % 16
      else if i.val / 16 = 2 then (3 * i.val + 5) % 16 else (7 * i.val) % 16) ∧
    stepS i.val = (if i.val / 16 = 0 then [7, 12, 17, 22] else if i.val / 16 = 1 then [5, 9, 14, 20]
      else if i.val / 16 = 2 then [4, 11, 16, 23] else [6, 10, 15, 21]).getD (i.val % 4) 0 ∧
    4 ≤ stepS i.val ∧ stepS i.val ≤ 23) ∧
  (∀ (r : Fin 4) (k : Fin 16), ∃! j : Fin 16, stepK (16 * r.val + j.val) = k.val) ∧
  tableT.length = 64

/-- R87, R88, R89, R90: the step of each round written out, with the examples the rules give or point to. -/
def Obligations.StepOfEachRound : Prop :=
  (∀ (x : Vector Word 16) (r : Chain) (i : Fin 16),
    md5Step x r i.val = ⟨r.d, r.b + rotl32 (r.a + auxF r.b r.c r.d + x[i.val] + stepT i.val)
      ([7, 12, 17, 22].getD (i.val % 4) 0), r.b, r.c⟩ ∧
    md5Step x r (16 + i.val) = ⟨r.d, r.b + rotl32 (r.a + auxG r.b r.c r.d +
      x[(5 * (16 + i.val) + 1) % 16] + stepT (16 + i.val)) ([5, 9, 14, 20].getD (i.val % 4) 0), r.b, r.c⟩ ∧
    md5Step x r (32 + i.val) = ⟨r.d, r.b + rotl32 (r.a + auxH r.b r.c r.d +
      x[(3 * (32 + i.val) + 5) % 16] + stepT (32 + i.val)) ([4, 11, 16, 23].getD (i.val % 4) 0), r.b, r.c⟩ ∧
    md5Step x r (48 + i.val) = ⟨r.d, r.b + rotl32 (r.a + auxI r.b r.c r.d +
      x[(7 * (48 + i.val)) % 16] + stepT (48 + i.val)) ([6, 10, 15, 21].getD (i.val % 4) 0), r.b, r.c⟩) ∧
  (∀ x : Vector Word 16, x[0] = 0x44434241 →
    md5Step x iv 0 = ⟨0x10325476, 0xC6C10796, 0xEFCDAB89, 0x98BADCFE⟩) ∧
  (∀ x : Vector Word 16, x[1] = 0x48474645 →
    (md5Step x ⟨0x16D22FC2, 0x40412096, 0xDD282EE9, 0x03468884⟩ 16).b = 0x74396B5C) ∧
  (∀ x : Vector Word 16, x[5] = 0x00000000 →
    (md5Step x ⟨0x96BC37F9, 0x715ACCDE, 0xA51B83AD, 0xE52D2B3B⟩ 32).b = 0xF388251A) ∧
  (∀ x : Vector Word 16, x[0] = 0x44434241 →
    (md5Step x ⟨0xC5ED2695, 0x84D8CED3, 0x1244EC40, 0xA3A65007⟩ 48).b = 0xC27C8446)

/-- Rotation moves bit `k` to bit `(k + s) mod 32`, and the bit length drops the three top bits of `COUNT` (41_md5_engine.md section 10). -/
def Obligations.RotateAndBitLength : Prop :=
  (∀ (v : Word) (s : Nat) (k : Fin 32), 4 ≤ s → s ≤ 23 →
    (rotl32 v s).getLsbD ((k.val + s) % 32) = v.getLsbD k.val) ∧
  (∀ e : Engine, e.bitCount = e.count.extractLsb' 0 61 ++ (0 : BitVec 3)) ∧
  (∀ cp : CodePoint, isAscii cp = true ↔ cp.extractLsb' 7 14 = 0)

/-- R82: the padding, its length, the number of blocks, and the rule's examples. -/
def Obligations.PaddingShape : Prop :=
  (∀ m : List Byte, ∃ z : Nat,
    (m.length + 1 + z) % 64 = 56 ∧ (∀ y, (m.length + 1 + y) % 64 = 56 → z ≤ y) ∧
    pad m = m ++ [0x80] ++ List.replicate z 0x00 ++ (le64 (BitVec.ofNat 64 (8 * m.length))).toList ∧
    (pad m).length = m.length + 1 + z + 8 ∧ (pad m).length % 64 = 0 ∧
    (m.length % 64 ≤ 55 → (pad m).length / 64 = m.length / 64 + 1) ∧
    (56 ≤ m.length % 64 → (pad m).length / 64 = m.length / 64 + 2)) ∧
  padZeros 0 = 55 ∧ padZeros 16 = 39 ∧ padZeros 55 = 0 ∧ padZeros 56 = 63 ∧ padZeros 64 = 55

/-- R96, R97: for a message of any length and any bytes, the register level computes the function `MD5`. The blocks compressed are those of
`Pad(m)`: the whole blocks of the message while it is absorbed (of every prefix of it, since `m` is any list), the remaining ones by
`PadFinal`. `COUNT` is the length modulo 2^64 and the length that is appended is the bit length modulo 2^64. -/
def Obligations.RegisterLevelComputesMd5 : Prop :=
  ∀ (e : Engine) (m : List Byte),
    (m.foldl Engine.absorb e.startMessage).padFinal.writeDigest.digest = md5 m ∧
    (m.foldl Engine.absorb e.startMessage).chain = compressBlocks (m.length / 64) iv m ∧
    compressBlocks (m.length / 64) iv (pad m) = compressBlocks (m.length / 64) iv m ∧
    (m.foldl Engine.absorb e.startMessage).padFinal.chain = compressBlocks ((pad m).length / 64) iv (pad m) ∧
    (m.foldl Engine.absorb e.startMessage).count = BitVec.ofNat 64 m.length ∧
    (m.foldl Engine.absorb e.startMessage).bitCount = BitVec.ofNat 64 (8 * m.length) ∧
    (m.foldl Engine.absorb e.startMessage).fillIndex = m.length % 64

/-- The digests of the empty message, of "abc" and of the source's message (41_md5_engine.md section 11, 95_test_vectors.md section 3). -/
def Obligations.Md5Examples : Prop :=
  (md5 []).toList =
    [0xd4, 0x1d, 0x8c, 0xd9, 0x8f, 0x00, 0xb2, 0x04, 0xe9, 0x80, 0x09, 0x98, 0xec, 0xf8, 0x42, 0x7e] ∧
  (md5 [0x61, 0x62, 0x63]).toList =
    [0x90, 0x01, 0x50, 0x98, 0x3c, 0xd2, 0x4f, 0xb0, 0xd6, 0x96, 0x3f, 0x7d, 0x28, 0xe1, 0x7f, 0x72] ∧
  (md5 [0x41, 0x42, 0x43, 0x44, 0x45, 0x46, 0x47, 0x48, 0x49, 0x4a, 0x4b, 0x4c, 0x4d, 0x4e, 0x4f, 0x50]).toList =
    [0x19, 0xfc, 0x8e, 0xff, 0x82, 0x03, 0x7f, 0x1f, 0xc0, 0xd8, 0xea, 0x1d, 0x32, 0xb5, 0xe3, 0x39]

/-! ## The reversal unit and the hex unit -/

/-- R102: the reversal is an involution and a bijection, and leaves exactly the byte palindromes alone. -/
def Obligations.ReversalIsInvolution : Prop :=
  (∀ d : Digest, reverseBytes (reverseBytes d) = d) ∧ Function.Bijective reverseBytes ∧
  ∀ d : Digest, reverseBytes d = d ↔ ∀ i : Fin 8, d[i.val] = d[15 - i.val]

/-- R103: the reversed digest by the words of the chaining value, by bytes, by register reads and as one number. -/
def Obligations.ReversedDigestByWords : Prop :=
  (∀ (h : Chain) (q r : Fin 4), (reverseBytes (digestBytes h))[4 * q.val + r.val] =
    (#v[h.d, h.c, h.b, h.a][q.val]).extractLsb' (24 - 8 * r.val) 8) ∧
  (∀ (e : Engine) (h : Chain), e.digest = digestBytes h → e.rdigest = reverseBytes e.digest →
    (∀ q : Fin 4, readRegister e (.digest q) = #v[h.a, h.b, h.c, h.d][q.val] ∧
      readRegister e (.rdigest q) = bswap32 (#v[h.d, h.c, h.b, h.a][q.val]) ∧
      readRegister e (.rdigest q) = bswap32 (readRegister e (.digest (3 - q))))) ∧
  (∀ h : Chain, (reverseBytes (digestBytes h)).toList.foldl (fun n b => 256 * n + b.toNat) 0 =
    (h.d ++ h.c ++ h.b ++ h.a).toNat) ∧
  (∀ e : Engine, e.digest = digestBytes ⟨0xFF8EFC19, 0x1F7F0382, 0x1DEAD8C0, 0x39E3B532⟩ →
    e.rdigest = reverseBytes e.digest → readRegister e (.rdigest 0) = 0x32B5E339)

/-- R104: the key is the print of the reversed digest, and differs from the print of the digest unless that is a byte palindrome. -/
def Obligations.ReversalIsObservable : Prop :=
  ∀ s : State, s.engine.phase = .absorb →
    ∃ t, exec .final s = .next t ∧ t.engine.key = hexLower t.engine.rdigest ∧
      (t.engine.key = hexLower t.engine.digest ↔
        ∀ i : Fin 8, t.engine.digest[i.val] = t.engine.digest[15 - i.val])

/-- R107: the sixteen digits, by the rule's two ranges; no uppercase code, no code at or above 128. -/
def Obligations.HexDigitCodes : Prop :=
  (∀ v : BitVec 4, (v.toNat ≤ 9 → (hexDigit v).toNat = 0x30 + v.toNat) ∧
    (10 ≤ v.toNat → (hexDigit v).toNat = 0x61 + (v.toNat - 10)) ∧
    ¬ (0x41 ≤ (hexDigit v).toNat ∧ (hexDigit v).toNat ≤ 0x46) ∧ (hexDigit v).toNat < 128)

/-- R109: the key through the window, first character in the low byte; the eight words stored to increasing addresses are the string. -/
def Obligations.KeyThroughTheWindow : Prop :=
  (∀ (e : Engine) (q : Fin 8) (k : Fin 4),
    (readRegister e (.key q)).extractLsb' (8 * k.val) 8 = e.key[4 * q.val + k.val]) ∧
  (∀ e : Engine, [0, 1, 2, 3, 4, 5, 6, 7].flatMap (fun q : Fin 8 => (le32 (readRegister e (.key q))).toList) =
    e.key.toList) ∧
  (∀ e : Engine, e.key.toList.take 8 = [0x33, 0x39, 0x65, 0x33, 0x62, 0x35, 0x33, 0x32] →
    readRegister e (.key 0) = 0x33653933 ∧ readRegister e (.key 1) = 0x32333562)

/-- R110: the key is the print of `D`, then of `C`, `B` and `A`, most significant digit first. -/
def Obligations.KeyByWords : Prop :=
  (∀ (h : Chain) (q : Fin 4) (t : Fin 8),
    (hexLower (reverseBytes (digestBytes h)))[8 * q.val + t.val] =
      hexDigit ((#v[h.d, h.c, h.b, h.a][q.val]).extractLsb' (28 - 4 * t.val) 4)) ∧
  (∀ (h : Chain) (j : Fin 32),
    (hexLower (reverseBytes (digestBytes h)))[j.val] =
      hexDigit ((h.d ++ h.c ++ h.b ++ h.a).extractLsb' (124 - 4 * j.val) 4))

/-- R111: the print is injective, the bytes are recovered from it, and the key determines the digest. -/
def Obligations.HexPrintIsInjective : Prop :=
  (∀ r r' : Digest, hexLower r = hexLower r' → r = r') ∧
  (∀ d d' : Digest, hexLower (reverseBytes d) = hexLower (reverseBytes d') → d = d') ∧
  ∃ val : Byte → Nat, (∀ v : BitVec 4, val (hexDigit v) = v.toNat) ∧
    ∀ (r : Digest) (i : Fin 16),
      r[i.val].toNat = 16 * val (hexLower r)[2 * i.val] + val (hexLower r)[2 * i.val + 1]

/-! ## The function and the whole machine -/

/-- R62: ASCII encoding is one byte per character and all or nothing. -/
def Obligations.AsciiEncodeAllOrNothing : Prop :=
  (∀ s : List CodePoint, (∀ c ∈ s, c.toNat < 128) →
    ∃ m, asciiEncode s = .ok m ∧ m.map BitVec.toNat = s.map BitVec.toNat) ∧
  (∀ s : List CodePoint, (∃ c ∈ s, 128 ≤ c.toNat) → asciiEncode s = .error .encodingError) ∧
  asciiEncode [] = .ok [] ∧ asciiEncode [0] = .ok [0] ∧ asciiEncode [127] = .ok [127]

/-- R70: the command sequence `DERIVE "s"` from any state ends as the function `Derive` says. -/
def Obligations.CommandsComputeDerive : Prop :=
  ∀ (s : List CodePoint) (st : State), s.length < 2 ^ 61 →
    ∃ t, runSteps (deriveSteps s) st = .next t ∧ t.pending = st.pending ∧
      t.observed = List.replicate (s.length + 2) .written ++ st.observed ∧
      match derive s with
      | .ok k => ∃ m, asciiEncode s = .ok m ∧ t.engine.phase = .done ∧ t.engine.status = 0x00000001 ∧
          t.engine.key = k ∧ t.engine.rdigest = reverseBytes (md5 m) ∧ t.engine.digest = md5 m ∧
          t.engine.count.toNat = s.length
      | .error _ => ∃ (j : Nat) (c : CodePoint), s[j]? = some c ∧ 128 ≤ c.toNat ∧
          (∀ i c', i < j → s[i]? = some c' → c'.toNat < 128) ∧
          t.engine.phase = .fault ∧ t.engine.status = 0x00000102 ∧ t.engine.count.toNat = j ∧
          t.engine.faultInfo = 0x20000000 ||| c.setWidth 32 ∧ OutputsZero t.engine

/-- R71: the end state of `DERIVE "s"` depends on `s` alone. -/
def Obligations.DeriveForgetsThePast : Prop :=
  ∀ s : List CodePoint, ∃ e : Engine, ∀ st : State,
    ∃ t, runSteps (deriveSteps s) st = .next t ∧ t.engine = e

/-- The hidden registers `A` to `D` and `BUF` are unobservable outside phase `ABSORB`: two states that differ in them alone answer every
sequence of host steps alike (10_state.md section 8). -/
def Obligations.HiddenRegistersUnobservable : Prop :=
  ∀ (xs : List HostStep) (s : State) (h : Chain) (p : Block), s.engine.phase ≠ .absorb →
    ∃ t u, runSteps xs s = .next t ∧
      runSteps xs { s with engine := (s.engine.withChain h).withBuf p } = .next u ∧ u.observed = t.observed

/-- In every run from reset, a phase `DONE` shows a key of 32 lowercase hexadecimal digits that is the key of an ASCII message
(40_commands.md section 7, 70_reset_and_hazards.md section 5). -/
def Obligations.EveryRunShowsOnlyDerivedKeys : Prop :=
  ∀ xs : List HostStep, ∃ t, runSteps xs State.reset = .next t ∧
    (t.engine.phase = .done → (∃ m, AsciiMessage m ∧ t.engine.key = keyOf m) ∧
      ∀ j : Fin 32, isHexChar t.engine.key[j.val] = true) ∧
    (t.engine.phase ≠ .done → OutputsZero t.engine)

/-- The driver sequence returns what `Derive` gives, for a message of any length, and cause 1 exactly on an encoding error (44_host_shell.md
section 2). -/
def Obligations.DriverReturnsDerive : Prop :=
  ∀ (cs : List CodePoint) (st : State), ∃ t : State,
    match derive cs with
    | .ok k => hostDerive cs st = .next (t, .ok k.toList)
    | .error _ => ∃ c ∈ cs, 128 ≤ c.toNat ∧ hostDerive cs st = .next (t, .error 1 (0x20000000 ||| c.setWidth 32))

/-- The shell on any line: the length gate, the labeled line, the encoding fault (44_host_shell.md section 1). The clause on the encoding
fault is resolution (a) of R122, the model's choice among the two that a host may take (log entry 9). -/
def Obligations.ShellCycle : Prop :=
  ∀ (input : List CodePoint) (s : State),
    if (trim input).length = 16 then
      ∃ t, match derive (trim input) with
        | .ok k => shell input s = .next (t,
            ⟨[.prompt Config.prompt, .line (Config.label ++ [0x3A, 0x20] ++ k.toList.map (fun b => b.setWidth 21))],
              [.awaitingInput, .done], 0⟩)
        | .error _ => shell input s = .next (t,
            ⟨[.prompt Config.prompt, .trace Config.encodingFaultTrace], [.awaitingInput], Config.encodingFaultExit⟩)
    else shell input s = .next (s,
      ⟨[.prompt Config.prompt, .line Config.lengthErrorMessage], [.awaitingInput, .rejectedInput, .done], 0⟩)

/-- Trimming takes whitespace off the two ends and keeps the rest; spaces around a line do not change what the shell does (44_host_shell.md
section 1). -/
def Obligations.TrimmingAtTheEnds : Prop :=
  (∀ input : List CodePoint, ∃ front back : List CodePoint, input = front ++ trim input ++ back ∧
    (∀ c ∈ front ++ back, Config.isWhitespace c = true) ∧
    (∀ c, (trim input).head? = some c → Config.isWhitespace c = false) ∧
    (∀ c, (trim input).getLast? = some c → Config.isWhitespace c = false)) ∧
  (∀ (input : List CodePoint) (i j : Nat) (s : State),
    shell (List.replicate i 0x20 ++ input ++ List.replicate j 0x20) s = shell input s)

/-- The length gate on every line, every line of fewer than 16 characters and the line of 17 letters among them (44_host_shell.md section 1;
95_test_vectors.md section 9, H7 and H8): the machine is as before, so no access has been made. The line with surrounding spaces is trimmed
to its 16 letters, accepted, and ends as the line without them, with the key of vector V1 (section 9, H9). That 'Q', 'A' and 'P' are outside
the whitespace set, on which the clause of the 17 letters and the trimming clauses rest, is the model's reading (log entry 19, DEDUCED). -/
def Obligations.ShellGateAndTrimming : Prop :=
  (∀ (input : List CodePoint) (s : State), (trim input).length ≠ 16 ∨ input.length < 16 ∨ input = letters 17 →
    shell input s = .next (s,
      ⟨[.prompt Config.prompt, .line Config.lengthErrorMessage], [.awaitingInput, .rejectedInput, .done], 0⟩)) ∧
  trim ([0x20, 0x20] ++ letters 16 ++ [0x20, 0x20]) = letters 16 ∧
  (∀ s : State, ∃ t,
    shell (letters 16) s = .next (t,
      ⟨[.prompt Config.prompt, .line (Config.label ++ [0x3A, 0x20] ++
        [0x33, 0x39, 0x65, 0x33, 0x62, 0x35, 0x33, 0x32, 0x31, 0x64, 0x65, 0x61, 0x64, 0x38, 0x63, 0x30,
         0x31, 0x66, 0x37, 0x66, 0x30, 0x33, 0x38, 0x32, 0x66, 0x66, 0x38, 0x65, 0x66, 0x63, 0x31, 0x39])],
        [.awaitingInput, .done], 0⟩) ∧
    shell ([0x20, 0x20] ++ letters 16 ++ [0x20, 0x20]) s = shell (letters 16) s)
end

