-- ==== Sys2Proof/Laws/Decode.lean ====
section
/-! SUPPORT. What decoding can answer, and the byte order of a command word. -/

namespace Sys2Proof

open Machine

/-- The bits of a word made of four bytes (00_scope.md R8). -/
theorem word32_getLsbD (b0 b1 b2 b3 : Byte) (i : Nat) :
    (word32 b0 b1 b2 b3).getLsbD i =
      if i < 8 then b0.getLsbD i else if i < 16 then b1.getLsbD (i - 8)
      else if i < 24 then b2.getLsbD (i - 16) else b3.getLsbD (i - 24) := by
  unfold word32
  erw [BitVec.getLsbD_append, BitVec.getLsbD_append, BitVec.getLsbD_append]
  grind

/-- The bytes of a word, put together again (R8: `word32` is the inverse of `le32`). -/
@[simp] theorem word32_extract (w : Word) :
    word32 (w.extractLsb' 0 8) (w.extractLsb' 8 8) (w.extractLsb' 16 8) (w.extractLsb' 24 8) = w := by
  apply BitVec.eq_of_getLsbD_eq
  intro i hi
  simp only [word32_getLsbD, BitVec.getLsbD_extractLsb']
  grind

/-- The bytes of a word in bus order. -/
theorem le32_toList (w : Word) :
    (le32 w).toList = [w.extractLsb' 0 8, w.extractLsb' 8 8, w.extractLsb' 16 8, w.extractLsb' 24 8] := rfl

@[simp] theorem decodeBytes_le32 (w : Word) : decodeBytes (le32 w).toList = decode w := by
  simp [le32_toList, decodeBytes]

/-- What the decoder can answer (30_encoding.md R54). -/
theorem decode_cases (w : Word) :
    (w = 0x10000000 ∧ decode w = .instr .init) ∨
    (w ≠ 0x10000000 ∧ w &&& 0xFFE00000 = 0x20000000 ∧ decode w = .instr (.push (cpField w))) ∨
    (w = 0x30000000 ∧ decode w = .instr .final) ∨
    (w ≠ 0x10000000 ∧ w &&& 0xFFE00000 ≠ 0x20000000 ∧ w ≠ 0x30000000 ∧ decode w = .illegal (illegalReason w)) := by
  unfold decode
  split
  · exact .inl ⟨‹_›, rfl⟩
  · split
    · exact .inr (.inl ⟨‹_›, ‹_›, rfl⟩)
    · split
      · exact .inr (.inr (.inl ⟨‹_›, rfl⟩))
      · exact .inr (.inr (.inr ⟨‹_›, ‹_›, ‹_›, rfl⟩))

end Sys2Proof
end

