-- ==== Sys2Proof/Laws/State.lean ====
section
/-! SUPPORT. One lemma per field per update of the state, so that no proof unfolds a record update. -/

namespace Sys2Proof.Machine

/-! ## State: the engine's registers, the bus -/

@[simp] theorem State.withEngine_engine (s : State) (e : Engine) : (s.withEngine e).engine = e := rfl
@[simp] theorem State.withEngine_pending (s : State) (e : Engine) : (s.withEngine e).pending = s.pending := rfl
@[simp] theorem State.withEngine_observed (s : State) (e : Engine) : (s.withEngine e).observed = s.observed := rfl
@[simp] theorem State.respond_engine (s : State) (r : Response) : (s.respond r).engine = s.engine := rfl
@[simp] theorem State.respond_pending (s : State) (r : Response) : (s.respond r).pending = s.pending := rfl
@[simp] theorem State.respond_observed (s : State) (r : Response) : (s.respond r).observed = r :: s.observed := rfl
@[simp] theorem State.popPending_engine (s : State) : s.popPending.engine = s.engine := rfl
@[simp] theorem State.popPending_pending (s : State) : s.popPending.pending = s.pending.tail := rfl
@[simp] theorem State.popPending_observed (s : State) : s.popPending.observed = s.observed := rfl
@[simp] theorem State.withEngine_self (s : State) : s.withEngine s.engine = s := rfl
@[simp] theorem State.withFetchWord_engine (s : State) (nbits w : Nat) : (s.withFetchWord nbits w).engine = s.engine := rfl
@[simp] theorem State.withFetchWord_pending (s : State) (nbits w : Nat) : (s.withFetchWord nbits w).pending = HostStep.write 0 (leBytes 4 (w % 2 ^ nbits)) :: s.pending := rfl
@[simp] theorem State.withFetchWord_observed (s : State) (nbits w : Nat) : (s.withFetchWord nbits w).observed = s.observed := rfl
@[simp] theorem State.withFetchWord_popPending (s : State) (nbits w : Nat) : (s.withFetchWord nbits w).popPending = s := rfl

/-! ## Fault entry -/

@[simp] theorem Engine.enterFault_a (e : Engine) (cause : Cause) (w : Word) : (e.enterFault cause w).a = e.a := rfl
@[simp] theorem Engine.enterFault_b (e : Engine) (cause : Cause) (w : Word) : (e.enterFault cause w).b = e.b := rfl
@[simp] theorem Engine.enterFault_c (e : Engine) (cause : Cause) (w : Word) : (e.enterFault cause w).c = e.c := rfl
@[simp] theorem Engine.enterFault_d (e : Engine) (cause : Cause) (w : Word) : (e.enterFault cause w).d = e.d := rfl
@[simp] theorem Engine.enterFault_phase (e : Engine) (cause : Cause) (w : Word) : (e.enterFault cause w).phase = .fault := rfl
@[simp] theorem Engine.enterFault_cause (e : Engine) (cause : Cause) (w : Word) : (e.enterFault cause w).cause = cause := rfl
@[simp] theorem Engine.enterFault_faultInfo (e : Engine) (cause : Cause) (w : Word) : (e.enterFault cause w).faultInfo = w := rfl
@[simp] theorem Engine.enterFault_count (e : Engine) (cause : Cause) (w : Word) : (e.enterFault cause w).count = e.count := rfl
@[simp] theorem Engine.enterFault_buf (e : Engine) (cause : Cause) (w : Word) : (e.enterFault cause w).buf = e.buf := rfl
@[simp] theorem Engine.enterFault_digest (e : Engine) (cause : Cause) (w : Word) : (e.enterFault cause w).digest = Vector.replicate 16 0 := rfl
@[simp] theorem Engine.enterFault_rdigest (e : Engine) (cause : Cause) (w : Word) : (e.enterFault cause w).rdigest = Vector.replicate 16 0 := rfl
@[simp] theorem Engine.enterFault_key (e : Engine) (cause : Cause) (w : Word) : (e.enterFault cause w).key = Vector.replicate 32 0 := rfl

/-! ## INIT -/

/-- `INIT` leaves the reset state, whatever it starts from (70_reset_and_hazards.md R151). -/
@[simp] theorem Engine.startMessage_eq (e : Engine) : e.startMessage = Engine.reset := rfl

/-! ## The chaining value -/

@[simp] theorem Engine.withChain_a (e : Engine) (h : Chain) : (e.withChain h).a = h.a := rfl
@[simp] theorem Engine.withChain_b (e : Engine) (h : Chain) : (e.withChain h).b = h.b := rfl
@[simp] theorem Engine.withChain_c (e : Engine) (h : Chain) : (e.withChain h).c = h.c := rfl
@[simp] theorem Engine.withChain_d (e : Engine) (h : Chain) : (e.withChain h).d = h.d := rfl
@[simp] theorem Engine.withChain_phase (e : Engine) (h : Chain) : (e.withChain h).phase = e.phase := rfl
@[simp] theorem Engine.withChain_cause (e : Engine) (h : Chain) : (e.withChain h).cause = e.cause := rfl
@[simp] theorem Engine.withChain_faultInfo (e : Engine) (h : Chain) : (e.withChain h).faultInfo = e.faultInfo := rfl
@[simp] theorem Engine.withChain_count (e : Engine) (h : Chain) : (e.withChain h).count = e.count := rfl
@[simp] theorem Engine.withChain_buf (e : Engine) (h : Chain) : (e.withChain h).buf = e.buf := rfl
@[simp] theorem Engine.withChain_digest (e : Engine) (h : Chain) : (e.withChain h).digest = e.digest := rfl
@[simp] theorem Engine.withChain_rdigest (e : Engine) (h : Chain) : (e.withChain h).rdigest = e.rdigest := rfl
@[simp] theorem Engine.withChain_key (e : Engine) (h : Chain) : (e.withChain h).key = e.key := rfl
@[simp] theorem Engine.withChain_chain (e : Engine) (h : Chain) : (e.withChain h).chain = h := rfl
@[simp] theorem Engine.compress_a (e : Engine) : e.compress.a = (compressF e.chain e.buf).a :=
  Engine.withChain_a e _
@[simp] theorem Engine.compress_b (e : Engine) : e.compress.b = (compressF e.chain e.buf).b :=
  Engine.withChain_b e _
@[simp] theorem Engine.compress_c (e : Engine) : e.compress.c = (compressF e.chain e.buf).c :=
  Engine.withChain_c e _
@[simp] theorem Engine.compress_d (e : Engine) : e.compress.d = (compressF e.chain e.buf).d :=
  Engine.withChain_d e _
@[simp] theorem Engine.compress_phase (e : Engine) : e.compress.phase = e.phase :=
  Engine.withChain_phase e _
@[simp] theorem Engine.compress_cause (e : Engine) : e.compress.cause = e.cause :=
  Engine.withChain_cause e _
@[simp] theorem Engine.compress_faultInfo (e : Engine) : e.compress.faultInfo = e.faultInfo :=
  Engine.withChain_faultInfo e _
@[simp] theorem Engine.compress_count (e : Engine) : e.compress.count = e.count :=
  Engine.withChain_count e _
@[simp] theorem Engine.compress_buf (e : Engine) : e.compress.buf = e.buf :=
  Engine.withChain_buf e _
@[simp] theorem Engine.compress_digest (e : Engine) : e.compress.digest = e.digest :=
  Engine.withChain_digest e _
@[simp] theorem Engine.compress_rdigest (e : Engine) : e.compress.rdigest = e.rdigest :=
  Engine.withChain_rdigest e _
@[simp] theorem Engine.compress_key (e : Engine) : e.compress.key = e.key :=
  Engine.withChain_key e _
@[simp] theorem Engine.compress_chain (e : Engine) : e.compress.chain = compressF e.chain e.buf :=
  Engine.withChain_chain e _

/-! ## The block buffer -/

@[simp] theorem Engine.store_a (e : Engine) (b : Byte) : (e.store b).a = e.a := rfl
@[simp] theorem Engine.store_b (e : Engine) (b : Byte) : (e.store b).b = e.b := rfl
@[simp] theorem Engine.store_c (e : Engine) (b : Byte) : (e.store b).c = e.c := rfl
@[simp] theorem Engine.store_d (e : Engine) (b : Byte) : (e.store b).d = e.d := rfl
@[simp] theorem Engine.store_phase (e : Engine) (b : Byte) : (e.store b).phase = e.phase := rfl
@[simp] theorem Engine.store_cause (e : Engine) (b : Byte) : (e.store b).cause = e.cause := rfl
@[simp] theorem Engine.store_faultInfo (e : Engine) (b : Byte) : (e.store b).faultInfo = e.faultInfo := rfl
@[simp] theorem Engine.store_count (e : Engine) (b : Byte) : (e.store b).count = e.count + 1 := rfl
@[simp] theorem Engine.store_buf (e : Engine) (b : Byte) : (e.store b).buf = e.buf.set e.fillIndex b e.fillIndex_lt := rfl
@[simp] theorem Engine.store_digest (e : Engine) (b : Byte) : (e.store b).digest = e.digest := rfl
@[simp] theorem Engine.store_rdigest (e : Engine) (b : Byte) : (e.store b).rdigest = e.rdigest := rfl
@[simp] theorem Engine.store_key (e : Engine) (b : Byte) : (e.store b).key = e.key := rfl
@[simp] theorem Engine.store_chain (e : Engine) (b : Byte) : (e.store b).chain = e.chain := rfl

/-- The registers `absorb` leaves alone, and the two it writes in every case (40_commands.md R68). -/
@[simp] theorem Engine.absorb_phase (e : Engine) (b : Byte) : (e.absorb b).phase = e.phase := by
  unfold Engine.absorb; split <;> simp
@[simp] theorem Engine.absorb_cause (e : Engine) (b : Byte) : (e.absorb b).cause = e.cause := by
  unfold Engine.absorb; split <;> simp
@[simp] theorem Engine.absorb_faultInfo (e : Engine) (b : Byte) : (e.absorb b).faultInfo = e.faultInfo := by
  unfold Engine.absorb; split <;> simp
@[simp] theorem Engine.absorb_count (e : Engine) (b : Byte) : (e.absorb b).count = e.count + 1 := by
  unfold Engine.absorb; split <;> simp
@[simp] theorem Engine.absorb_buf (e : Engine) (b : Byte) : (e.absorb b).buf = e.buf.set e.fillIndex b e.fillIndex_lt := by
  unfold Engine.absorb; split <;> simp
@[simp] theorem Engine.absorb_digest (e : Engine) (b : Byte) : (e.absorb b).digest = e.digest := by
  unfold Engine.absorb; split <;> simp
@[simp] theorem Engine.absorb_rdigest (e : Engine) (b : Byte) : (e.absorb b).rdigest = e.rdigest := by
  unfold Engine.absorb; split <;> simp
@[simp] theorem Engine.absorb_key (e : Engine) (b : Byte) : (e.absorb b).key = e.key := by
  unfold Engine.absorb; split <;> simp

/-- The chaining value after `absorb`: a compression exactly when the fill index was 63 (R68). -/
theorem Engine.absorb_chain (e : Engine) (b : Byte) :
    (e.absorb b).chain =
      if e.fillIndex = 63 then compressF e.chain (e.buf.set e.fillIndex b e.fillIndex_lt) else e.chain := by
  unfold Engine.absorb; split <;> simp


/-! ## Writes of one register -/

@[simp] theorem Engine.withBuf_a (e : Engine) (p : Block) : (e.withBuf p).a = e.a := rfl
@[simp] theorem Engine.withBuf_b (e : Engine) (p : Block) : (e.withBuf p).b = e.b := rfl
@[simp] theorem Engine.withBuf_c (e : Engine) (p : Block) : (e.withBuf p).c = e.c := rfl
@[simp] theorem Engine.withBuf_d (e : Engine) (p : Block) : (e.withBuf p).d = e.d := rfl
@[simp] theorem Engine.withBuf_phase (e : Engine) (p : Block) : (e.withBuf p).phase = e.phase := rfl
@[simp] theorem Engine.withBuf_cause (e : Engine) (p : Block) : (e.withBuf p).cause = e.cause := rfl
@[simp] theorem Engine.withBuf_faultInfo (e : Engine) (p : Block) : (e.withBuf p).faultInfo = e.faultInfo := rfl
@[simp] theorem Engine.withBuf_count (e : Engine) (p : Block) : (e.withBuf p).count = e.count := rfl
@[simp] theorem Engine.withBuf_buf (e : Engine) (p : Block) : (e.withBuf p).buf = p := rfl
@[simp] theorem Engine.withBuf_digest (e : Engine) (p : Block) : (e.withBuf p).digest = e.digest := rfl
@[simp] theorem Engine.withBuf_rdigest (e : Engine) (p : Block) : (e.withBuf p).rdigest = e.rdigest := rfl
@[simp] theorem Engine.withBuf_key (e : Engine) (p : Block) : (e.withBuf p).key = e.key := rfl
@[simp] theorem Engine.withBuf_chain (e : Engine) (p : Block) : (e.withBuf p).chain = e.chain := rfl
@[simp] theorem Engine.setDone_a (e : Engine) : (e.setDone).a = e.a := rfl
@[simp] theorem Engine.setDone_b (e : Engine) : (e.setDone).b = e.b := rfl
@[simp] theorem Engine.setDone_c (e : Engine) : (e.setDone).c = e.c := rfl
@[simp] theorem Engine.setDone_d (e : Engine) : (e.setDone).d = e.d := rfl
@[simp] theorem Engine.setDone_phase (e : Engine) : (e.setDone).phase = .done := rfl
@[simp] theorem Engine.setDone_cause (e : Engine) : (e.setDone).cause = e.cause := rfl
@[simp] theorem Engine.setDone_faultInfo (e : Engine) : (e.setDone).faultInfo = e.faultInfo := rfl
@[simp] theorem Engine.setDone_count (e : Engine) : (e.setDone).count = e.count := rfl
@[simp] theorem Engine.setDone_buf (e : Engine) : (e.setDone).buf = e.buf := rfl
@[simp] theorem Engine.setDone_digest (e : Engine) : (e.setDone).digest = e.digest := rfl
@[simp] theorem Engine.setDone_rdigest (e : Engine) : (e.setDone).rdigest = e.rdigest := rfl
@[simp] theorem Engine.setDone_key (e : Engine) : (e.setDone).key = e.key := rfl
@[simp] theorem Engine.setDone_chain (e : Engine) : (e.setDone).chain = e.chain := rfl
@[simp] theorem Engine.withDigest_a (e : Engine) (v : Digest) : (e.withDigest v).a = e.a := rfl
@[simp] theorem Engine.withDigest_b (e : Engine) (v : Digest) : (e.withDigest v).b = e.b := rfl
@[simp] theorem Engine.withDigest_c (e : Engine) (v : Digest) : (e.withDigest v).c = e.c := rfl
@[simp] theorem Engine.withDigest_d (e : Engine) (v : Digest) : (e.withDigest v).d = e.d := rfl
@[simp] theorem Engine.withDigest_phase (e : Engine) (v : Digest) : (e.withDigest v).phase = e.phase := rfl
@[simp] theorem Engine.withDigest_cause (e : Engine) (v : Digest) : (e.withDigest v).cause = e.cause := rfl
@[simp] theorem Engine.withDigest_faultInfo (e : Engine) (v : Digest) : (e.withDigest v).faultInfo = e.faultInfo := rfl
@[simp] theorem Engine.withDigest_count (e : Engine) (v : Digest) : (e.withDigest v).count = e.count := rfl
@[simp] theorem Engine.withDigest_buf (e : Engine) (v : Digest) : (e.withDigest v).buf = e.buf := rfl
@[simp] theorem Engine.withDigest_digest (e : Engine) (v : Digest) : (e.withDigest v).digest = v := rfl
@[simp] theorem Engine.withDigest_rdigest (e : Engine) (v : Digest) : (e.withDigest v).rdigest = e.rdigest := rfl
@[simp] theorem Engine.withDigest_key (e : Engine) (v : Digest) : (e.withDigest v).key = e.key := rfl
@[simp] theorem Engine.withDigest_chain (e : Engine) (v : Digest) : (e.withDigest v).chain = e.chain := rfl
@[simp] theorem Engine.withRdigest_a (e : Engine) (v : Digest) : (e.withRdigest v).a = e.a := rfl
@[simp] theorem Engine.withRdigest_b (e : Engine) (v : Digest) : (e.withRdigest v).b = e.b := rfl
@[simp] theorem Engine.withRdigest_c (e : Engine) (v : Digest) : (e.withRdigest v).c = e.c := rfl
@[simp] theorem Engine.withRdigest_d (e : Engine) (v : Digest) : (e.withRdigest v).d = e.d := rfl
@[simp] theorem Engine.withRdigest_phase (e : Engine) (v : Digest) : (e.withRdigest v).phase = e.phase := rfl
@[simp] theorem Engine.withRdigest_cause (e : Engine) (v : Digest) : (e.withRdigest v).cause = e.cause := rfl
@[simp] theorem Engine.withRdigest_faultInfo (e : Engine) (v : Digest) : (e.withRdigest v).faultInfo = e.faultInfo := rfl
@[simp] theorem Engine.withRdigest_count (e : Engine) (v : Digest) : (e.withRdigest v).count = e.count := rfl
@[simp] theorem Engine.withRdigest_buf (e : Engine) (v : Digest) : (e.withRdigest v).buf = e.buf := rfl
@[simp] theorem Engine.withRdigest_digest (e : Engine) (v : Digest) : (e.withRdigest v).digest = e.digest := rfl
@[simp] theorem Engine.withRdigest_rdigest (e : Engine) (v : Digest) : (e.withRdigest v).rdigest = v := rfl
@[simp] theorem Engine.withRdigest_key (e : Engine) (v : Digest) : (e.withRdigest v).key = e.key := rfl
@[simp] theorem Engine.withRdigest_chain (e : Engine) (v : Digest) : (e.withRdigest v).chain = e.chain := rfl
@[simp] theorem Engine.withKey_a (e : Engine) (v : Key) : (e.withKey v).a = e.a := rfl
@[simp] theorem Engine.withKey_b (e : Engine) (v : Key) : (e.withKey v).b = e.b := rfl
@[simp] theorem Engine.withKey_c (e : Engine) (v : Key) : (e.withKey v).c = e.c := rfl
@[simp] theorem Engine.withKey_d (e : Engine) (v : Key) : (e.withKey v).d = e.d := rfl
@[simp] theorem Engine.withKey_phase (e : Engine) (v : Key) : (e.withKey v).phase = e.phase := rfl
@[simp] theorem Engine.withKey_cause (e : Engine) (v : Key) : (e.withKey v).cause = e.cause := rfl
@[simp] theorem Engine.withKey_faultInfo (e : Engine) (v : Key) : (e.withKey v).faultInfo = e.faultInfo := rfl
@[simp] theorem Engine.withKey_count (e : Engine) (v : Key) : (e.withKey v).count = e.count := rfl
@[simp] theorem Engine.withKey_buf (e : Engine) (v : Key) : (e.withKey v).buf = e.buf := rfl
@[simp] theorem Engine.withKey_digest (e : Engine) (v : Key) : (e.withKey v).digest = e.digest := rfl
@[simp] theorem Engine.withKey_rdigest (e : Engine) (v : Key) : (e.withKey v).rdigest = e.rdigest := rfl
@[simp] theorem Engine.withKey_key (e : Engine) (v : Key) : (e.withKey v).key = v := rfl
@[simp] theorem Engine.withKey_chain (e : Engine) (v : Key) : (e.withKey v).chain = e.chain := rfl

/-! ## The buffer and the counter -/

@[simp] theorem Engine.withBuf_bitCount (e : Engine) (p : Block) : (e.withBuf p).bitCount = e.bitCount := rfl
@[simp] theorem Engine.withBuf_fillIndex (e : Engine) (p : Block) : (e.withBuf p).fillIndex = e.fillIndex := rfl

/-! ## FINAL -/

@[simp] theorem Engine.padMarker_phase (e : Engine) : e.padMarker.phase = e.phase := by
  simp only [Engine.padMarker]; split <;> simp
@[simp] theorem Engine.padMarker_cause (e : Engine) : e.padMarker.cause = e.cause := by
  simp only [Engine.padMarker]; split <;> simp
@[simp] theorem Engine.padMarker_faultInfo (e : Engine) : e.padMarker.faultInfo = e.faultInfo := by
  simp only [Engine.padMarker]; split <;> simp
@[simp] theorem Engine.padMarker_count (e : Engine) : e.padMarker.count = e.count := by
  simp only [Engine.padMarker]; split <;> simp
@[simp] theorem Engine.padMarker_digest (e : Engine) : e.padMarker.digest = e.digest := by
  simp only [Engine.padMarker]; split <;> simp
@[simp] theorem Engine.padMarker_rdigest (e : Engine) : e.padMarker.rdigest = e.rdigest := by
  simp only [Engine.padMarker]; split <;> simp
@[simp] theorem Engine.padMarker_key (e : Engine) : e.padMarker.key = e.key := by
  simp only [Engine.padMarker]; split <;> simp
@[simp] theorem Engine.padFinal_phase (e : Engine) : e.padFinal.phase = e.phase := by
  simp [Engine.padFinal]
@[simp] theorem Engine.padFinal_cause (e : Engine) : e.padFinal.cause = e.cause := by
  simp [Engine.padFinal]
@[simp] theorem Engine.padFinal_faultInfo (e : Engine) : e.padFinal.faultInfo = e.faultInfo := by
  simp [Engine.padFinal]
@[simp] theorem Engine.padFinal_count (e : Engine) : e.padFinal.count = e.count := by
  simp [Engine.padFinal]
@[simp] theorem Engine.padFinal_buf (e : Engine) : e.padFinal.buf = putLength e.bitCount e.padMarker.buf := by
  simp [Engine.padFinal]
@[simp] theorem Engine.padFinal_digest (e : Engine) : e.padFinal.digest = e.digest := by
  simp [Engine.padFinal]
@[simp] theorem Engine.padFinal_rdigest (e : Engine) : e.padFinal.rdigest = e.rdigest := by
  simp [Engine.padFinal]
@[simp] theorem Engine.padFinal_key (e : Engine) : e.padFinal.key = e.key := by
  simp [Engine.padFinal]
@[simp] theorem Engine.padFinal_chain (e : Engine) :
    e.padFinal.chain = compressF e.padMarker.chain (putLength e.bitCount e.padMarker.buf) := by
  simp [Engine.padFinal]

/-- The marker part of the padding when the length has room: nothing is compressed (41_md5_engine.md R92). -/
theorem Engine.padMarker_of_lt (e : Engine) (h : e.fillIndex < 56) :
    e.padMarker.chain = e.chain ∧ e.padMarker.buf = padTail e.fillIndex e.buf := by
  have : ¬ 56 ≤ e.fillIndex := by omega
  simp [Engine.padMarker, this]

/-- The marker part of the padding when the length has no room: one compression, then an empty buffer (R92). -/
theorem Engine.padMarker_of_ge (e : Engine) (h : 56 ≤ e.fillIndex) :
    e.padMarker.chain = compressF e.chain (padTail e.fillIndex e.buf) ∧
      e.padMarker.buf = Vector.replicate 64 0 := by
  simp [Engine.padMarker, h]
@[simp] theorem Engine.writeDigest_a (e : Engine) : e.writeDigest.a = e.a :=
  Engine.withDigest_a e _
@[simp] theorem Engine.writeDigest_b (e : Engine) : e.writeDigest.b = e.b :=
  Engine.withDigest_b e _
@[simp] theorem Engine.writeDigest_c (e : Engine) : e.writeDigest.c = e.c :=
  Engine.withDigest_c e _
@[simp] theorem Engine.writeDigest_d (e : Engine) : e.writeDigest.d = e.d :=
  Engine.withDigest_d e _
@[simp] theorem Engine.writeDigest_phase (e : Engine) : e.writeDigest.phase = e.phase :=
  Engine.withDigest_phase e _
@[simp] theorem Engine.writeDigest_cause (e : Engine) : e.writeDigest.cause = e.cause :=
  Engine.withDigest_cause e _
@[simp] theorem Engine.writeDigest_faultInfo (e : Engine) : e.writeDigest.faultInfo = e.faultInfo :=
  Engine.withDigest_faultInfo e _
@[simp] theorem Engine.writeDigest_count (e : Engine) : e.writeDigest.count = e.count :=
  Engine.withDigest_count e _
@[simp] theorem Engine.writeDigest_buf (e : Engine) : e.writeDigest.buf = e.buf :=
  Engine.withDigest_buf e _
@[simp] theorem Engine.writeDigest_digest (e : Engine) : e.writeDigest.digest = digestBytes e.chain :=
  Engine.withDigest_digest e _
@[simp] theorem Engine.writeDigest_rdigest (e : Engine) : e.writeDigest.rdigest = e.rdigest :=
  Engine.withDigest_rdigest e _
@[simp] theorem Engine.writeDigest_key (e : Engine) : e.writeDigest.key = e.key :=
  Engine.withDigest_key e _
@[simp] theorem Engine.writeDigest_chain (e : Engine) : e.writeDigest.chain = e.chain :=
  Engine.withDigest_chain e _
@[simp] theorem Engine.writeReversed_a (e : Engine) : e.writeReversed.a = e.a :=
  Engine.withRdigest_a e _
@[simp] theorem Engine.writeReversed_b (e : Engine) : e.writeReversed.b = e.b :=
  Engine.withRdigest_b e _
@[simp] theorem Engine.writeReversed_c (e : Engine) : e.writeReversed.c = e.c :=
  Engine.withRdigest_c e _
@[simp] theorem Engine.writeReversed_d (e : Engine) : e.writeReversed.d = e.d :=
  Engine.withRdigest_d e _
@[simp] theorem Engine.writeReversed_phase (e : Engine) : e.writeReversed.phase = e.phase :=
  Engine.withRdigest_phase e _
@[simp] theorem Engine.writeReversed_cause (e : Engine) : e.writeReversed.cause = e.cause :=
  Engine.withRdigest_cause e _
@[simp] theorem Engine.writeReversed_faultInfo (e : Engine) : e.writeReversed.faultInfo = e.faultInfo :=
  Engine.withRdigest_faultInfo e _
@[simp] theorem Engine.writeReversed_count (e : Engine) : e.writeReversed.count = e.count :=
  Engine.withRdigest_count e _
@[simp] theorem Engine.writeReversed_buf (e : Engine) : e.writeReversed.buf = e.buf :=
  Engine.withRdigest_buf e _
@[simp] theorem Engine.writeReversed_digest (e : Engine) : e.writeReversed.digest = e.digest :=
  Engine.withRdigest_digest e _
@[simp] theorem Engine.writeReversed_rdigest (e : Engine) : e.writeReversed.rdigest = reverseBytes e.digest :=
  Engine.withRdigest_rdigest e _
@[simp] theorem Engine.writeReversed_key (e : Engine) : e.writeReversed.key = e.key :=
  Engine.withRdigest_key e _
@[simp] theorem Engine.writeReversed_chain (e : Engine) : e.writeReversed.chain = e.chain :=
  Engine.withRdigest_chain e _
@[simp] theorem Engine.writeKey_a (e : Engine) : e.writeKey.a = e.a :=
  Engine.withKey_a e _
@[simp] theorem Engine.writeKey_b (e : Engine) : e.writeKey.b = e.b :=
  Engine.withKey_b e _
@[simp] theorem Engine.writeKey_c (e : Engine) : e.writeKey.c = e.c :=
  Engine.withKey_c e _
@[simp] theorem Engine.writeKey_d (e : Engine) : e.writeKey.d = e.d :=
  Engine.withKey_d e _
@[simp] theorem Engine.writeKey_phase (e : Engine) : e.writeKey.phase = e.phase :=
  Engine.withKey_phase e _
@[simp] theorem Engine.writeKey_cause (e : Engine) : e.writeKey.cause = e.cause :=
  Engine.withKey_cause e _
@[simp] theorem Engine.writeKey_faultInfo (e : Engine) : e.writeKey.faultInfo = e.faultInfo :=
  Engine.withKey_faultInfo e _
@[simp] theorem Engine.writeKey_count (e : Engine) : e.writeKey.count = e.count :=
  Engine.withKey_count e _
@[simp] theorem Engine.writeKey_buf (e : Engine) : e.writeKey.buf = e.buf :=
  Engine.withKey_buf e _
@[simp] theorem Engine.writeKey_digest (e : Engine) : e.writeKey.digest = e.digest :=
  Engine.withKey_digest e _
@[simp] theorem Engine.writeKey_rdigest (e : Engine) : e.writeKey.rdigest = e.rdigest :=
  Engine.withKey_rdigest e _
@[simp] theorem Engine.writeKey_key (e : Engine) : e.writeKey.key = hexLower e.rdigest :=
  Engine.withKey_key e _
@[simp] theorem Engine.writeKey_chain (e : Engine) : e.writeKey.chain = e.chain :=
  Engine.withKey_chain e _
@[simp] theorem Engine.finish_a (e : Engine) : e.finish.a = e.padFinal.a := by
  simp [Engine.finish]
@[simp] theorem Engine.finish_b (e : Engine) : e.finish.b = e.padFinal.b := by
  simp [Engine.finish]
@[simp] theorem Engine.finish_c (e : Engine) : e.finish.c = e.padFinal.c := by
  simp [Engine.finish]
@[simp] theorem Engine.finish_d (e : Engine) : e.finish.d = e.padFinal.d := by
  simp [Engine.finish]
@[simp] theorem Engine.finish_phase (e : Engine) : e.finish.phase = .done := by
  simp [Engine.finish]
@[simp] theorem Engine.finish_cause (e : Engine) : e.finish.cause = e.cause := by
  simp [Engine.finish]
@[simp] theorem Engine.finish_faultInfo (e : Engine) : e.finish.faultInfo = e.faultInfo := by
  simp [Engine.finish]
@[simp] theorem Engine.finish_count (e : Engine) : e.finish.count = e.count := by
  simp [Engine.finish]
@[simp] theorem Engine.finish_buf (e : Engine) : e.finish.buf = putLength e.bitCount e.padMarker.buf := by
  simp [Engine.finish]
@[simp] theorem Engine.finish_digest (e : Engine) : e.finish.digest = digestBytes e.padFinal.chain := by
  simp [Engine.finish]
@[simp] theorem Engine.finish_rdigest (e : Engine) : e.finish.rdigest = reverseBytes (digestBytes e.padFinal.chain) := by
  simp [Engine.finish]
@[simp] theorem Engine.finish_key (e : Engine) : e.finish.key = hexLower (reverseBytes (digestBytes e.padFinal.chain)) := by
  simp [Engine.finish]
@[simp] theorem Engine.finish_chain (e : Engine) : e.finish.chain = e.padFinal.chain := by
  simp [Engine.chain]

/-! ## Reset -/

@[simp] theorem Engine.reset_a : Engine.reset.a = 0x67452301 := rfl
@[simp] theorem Engine.reset_b : Engine.reset.b = 0xEFCDAB89 := rfl
@[simp] theorem Engine.reset_c : Engine.reset.c = 0x98BADCFE := rfl
@[simp] theorem Engine.reset_d : Engine.reset.d = 0x10325476 := rfl
@[simp] theorem Engine.reset_phase : Engine.reset.phase = .absorb := rfl
@[simp] theorem Engine.reset_cause : Engine.reset.cause = .none := rfl
@[simp] theorem Engine.reset_faultInfo : Engine.reset.faultInfo = 0 := rfl
@[simp] theorem Engine.reset_count : Engine.reset.count = 0 := rfl
@[simp] theorem Engine.reset_buf : Engine.reset.buf = Vector.replicate 64 0 := rfl
@[simp] theorem Engine.reset_digest : Engine.reset.digest = Vector.replicate 16 0 := rfl
@[simp] theorem Engine.reset_rdigest : Engine.reset.rdigest = Vector.replicate 16 0 := rfl
@[simp] theorem Engine.reset_key : Engine.reset.key = Vector.replicate 32 0 := rfl
@[simp] theorem Engine.reset_chain : Engine.reset.chain = iv := rfl
@[simp] theorem State.reset_engine : State.reset.engine = Engine.reset := rfl
@[simp] theorem State.reset_pending : State.reset.pending = [] := rfl
@[simp] theorem State.reset_observed : State.reset.observed = [] := rfl

end Sys2Proof.Machine
end

