-- ==== Sys2Proof/Laws/Ops.lean ====
section
/-! SUPPORT. What each shared operation can do, said once. -/

namespace Sys2Proof.Machine

open Host

@[simp] theorem andThen_next {σ τ : Type} (s : σ) (f : σ → Outcome τ Fault Refusal) : andThen (.next s) f = f s := rfl

@[simp] theorem andThen_fault {σ τ : Type} (r : Fault) (f : σ → Outcome τ Fault Refusal) :
    andThen (.fault r) f = .fault r := rfl

@[simp] theorem andThen_refused {σ τ : Type} (r : Refusal) (f : σ → Outcome τ Fault Refusal) :
    andThen (.refused r) f = .refused r := rfl

/-- A sequence that answers a next state answered one at its first part. -/
theorem andThen_next_inv {σ τ : Type} {o : Outcome σ Fault Refusal} {f : σ → Outcome τ Fault Refusal} {t : τ}
    (h : andThen o f = .next t) : ∃ s, o = .next s ∧ f s = .next t := by
  cases o with
  | next s => exact ⟨s, rfl, h⟩
  | fault r => cases h
  | refused r => cases h

/-- The sequencer's phase check, in each phase (40_commands.md R64). -/
theorem sequenced_absorb {w : Word} {f : Engine → Engine} {s : State} (h : s.engine.phase = .absorb) :
    sequenced w f s = .next (s.withEngine (f s.engine)) := by simp [sequenced, h]

theorem sequenced_done {w : Word} {f : Engine → Engine} {s : State} (h : s.engine.phase = .done) :
    sequenced w f s = .next (s.withEngine (s.engine.enterFault .sequenceError w)) := by simp [sequenced, h]

theorem sequenced_fault {w : Word} {f : Engine → Engine} {s : State} (h : s.engine.phase = .fault) :
    sequenced w f s = .next s := by simp [sequenced, h]

/-- Everything the phase check can do. -/
theorem sequenced_cases {w : Word} {f : Engine → Engine} {s t : State} (h : sequenced w f s = .next t) :
    (s.engine.phase = .absorb ∧ t = s.withEngine (f s.engine)) ∨
    (s.engine.phase = .done ∧ t = s.withEngine (s.engine.enterFault .sequenceError w)) ∨
    (s.engine.phase = .fault ∧ t = s) := by
  cases hp : s.engine.phase with
  | absorb => rw [sequenced_absorb hp] at h; exact .inl ⟨rfl, by cases h; rfl⟩
  | done => rw [sequenced_done hp] at h; exact .inr (.inl ⟨rfl, by cases h; rfl⟩)
  | fault => rw [sequenced_fault hp] at h; exact .inr (.inr ⟨rfl, by cases h; rfl⟩)

/-- Everything an illegal word can do (60_exceptions.md R132). -/
theorem illegalCommand_cases {w : Word} {s t : State} (h : illegalCommand w s = .next t) :
    (s.engine.phase ≠ .fault ∧ t = s.withEngine (s.engine.enterFault .illegalCommand w)) ∨
    (s.engine.phase = .fault ∧ t = s) := by
  cases hp : s.engine.phase <;> simp [illegalCommand, hp] at h
  · exact .inl ⟨by simp, h.symm⟩
  · exact .inl ⟨by simp, h.symm⟩
  · exact .inr ⟨rfl, h.symm⟩

/-- Everything a character can do in phase `ABSORB` (40_commands.md R66). -/
theorem takeCharacter_cases (e : Engine) (cp : CodePoint) (w : Word) :
    (cp.toNat < 128 ∧ e.takeCharacter cp w = e.absorb (codePointByte cp)) ∨
    (128 ≤ cp.toNat ∧ e.takeCharacter cp w = e.enterFault .encodingError w) := by
  by_cases h : cp.toNat < 128
  · exact .inl ⟨h, by simp [Engine.takeCharacter, isAscii, Config.asciiLimit, h]⟩
  · exact .inr ⟨by omega, by simp [Engine.takeCharacter, isAscii, Config.asciiLimit, h]⟩

/-- The byte of a character below 128 is the character (30_encoding.md R52). -/
theorem codePointByte_toNat {cp : CodePoint} (h : cp.toNat < 128) : (codePointByte cp).toNat = cp.toNat := by
  simp [codePointByte, BitVec.extractLsb'_toNat]; omega

/-- Everything a command can do (R64 to R67). -/
theorem exec_cases {i : Instr} {s t : State} (h : exec i s = .next t) :
    (i = .init ∧ t = s.withEngine Engine.reset) ∨
    (i ≠ .init ∧ s.engine.phase = .fault ∧ t = s) ∨
    (i ≠ .init ∧ s.engine.phase = .done ∧ t = s.withEngine (s.engine.enterFault .sequenceError (encode i))) ∨
    (∃ cp : CodePoint, i = .push cp ∧ s.engine.phase = .absorb ∧ cp.toNat < 128 ∧
      t = s.withEngine (s.engine.absorb (codePointByte cp))) ∨
    (∃ cp : CodePoint, i = .push cp ∧ s.engine.phase = .absorb ∧ 128 ≤ cp.toNat ∧
      t = s.withEngine (s.engine.enterFault .encodingError (encode i))) ∨
    (i = .final ∧ s.engine.phase = .absorb ∧ t = s.withEngine s.engine.finish) := by
  cases i with
  | init => exact .inl ⟨rfl, by cases h; rfl⟩
  | push cp =>
    simp only [exec, execPush] at h
    rcases sequenced_cases h with ⟨hp, rfl⟩ | ⟨hp, rfl⟩ | ⟨hp, rfl⟩
    · rcases takeCharacter_cases s.engine cp (encode (.push cp)) with ⟨hc, he⟩ | ⟨hc, he⟩
      · exact .inr (.inr (.inr (.inl ⟨cp, rfl, hp, hc, by rw [he]⟩)))
      · exact .inr (.inr (.inr (.inr (.inl ⟨cp, rfl, hp, hc, by rw [he]⟩))))
    · exact .inr (.inr (.inl ⟨by simp, hp, rfl⟩))
    · exact .inr (.inl ⟨by simp, hp, rfl⟩)
  | final =>
    simp only [exec, execFinal] at h
    rcases sequenced_cases h with ⟨hp, rfl⟩ | ⟨hp, rfl⟩ | ⟨hp, rfl⟩
    · exact .inr (.inr (.inr (.inr (.inr ⟨rfl, hp, rfl⟩))))
    · exact .inr (.inr (.inl ⟨by simp, hp, rfl⟩))
    · exact .inr (.inl ⟨by simp, hp, rfl⟩)

end Sys2Proof.Machine
end

