-- ==== Sys2Proof/Laws/PerInstr.lean ====
section
/-! SUPPORT. Statements about every instruction as syntax, one lemma per constructor. -/

namespace Sys2Proof.Laws.SelectsRow

/-- The encoding of an instruction selects its row of the opcode map: `w AND mask = match` (30_encoding.md R53). -/
def Statement (i : Instr) : Prop := (opcodeRow i).selects (encode i) = true

theorem init : Statement .init := by simp [Statement, OpcodeRow.selects, opcodeRow, encode]

theorem push (cp : CodePoint) : Statement (.push cp) := by
  have hm : ∀ i < 32, (0xFFE00000#32).getLsbD i = decide (21 ≤ i) := by decide
  have ho : ∀ i < 32, (0x20000000#32).getLsbD i = decide (i = 29) := by decide
  have h : (0x20000000#32 ||| cp.setWidth 32) &&& 0xFFE00000#32 = 0x20000000#32 := by
    apply BitVec.eq_of_getLsbD_eq
    intro i hi
    have hc : 21 ≤ i → cp.getLsbD i = false := fun h => BitVec.getLsbD_of_ge _ _ h
    rw [BitVec.getLsbD_and, BitVec.getLsbD_or, hm i hi, ho i hi, BitVec.getLsbD_setWidth]
    grind
  simpa [Statement, OpcodeRow.selects, opcodeRow, encode] using h

theorem final : Statement .final := by simp [Statement, OpcodeRow.selects, opcodeRow, encode]

end Sys2Proof.Laws.SelectsRow
end

