-- ==== Sys2Proof/Laws/Shell.lean ====
section
/-! SUPPORT. What the shell's trimming and its length gate do to any line (44_host_shell.md R116, R117, R125). -/

namespace Sys2Proof.Machine

/-- U+0020 is whitespace (R116, 92_eei_decisions.md D25). -/
@[simp] theorem isWhitespace_space : Config.isWhitespace 0x20 = true := rfl

/-- A kept character is not whitespace, whatever the open part of the set is (log entry 19). -/
theorem isWhitespace_kept {c : CodePoint} (h : c ∈ Config.keptCharacters) : Config.isWhitespace c = false := by
  have hs : (c == 0x20) = false := beq_false_of_ne fun he => absurd (he ▸ h) (by decide)
  rw [Config.isWhitespace, hs]
  simp [h]

/-- Trimming adds no character. -/
theorem trim_length_le (line : List CodePoint) : (trim line).length ≤ line.length := by
  simp only [trim, List.length_reverse]
  exact ((List.dropWhile_sublist _).length_le.trans (List.length_reverse ..).le).trans
    (List.dropWhile_sublist _).length_le

/-- The gate passes exactly on a trimmed length of 16 (R117). -/
theorem lengthGate_iff (line : List CodePoint) : lengthGate line = true ↔ line.length = 16 := by
  simp [lengthGate]

/-- What the shell does on a line that the gate does not pass (R117): nothing with the machine. -/
theorem shell_of_gate_false {line : List CodePoint} (h : (trim line).length ≠ 16) (s : State) :
    shell line s = .next (s, rejectedRun) := by
  have hg : ¬ lengthGate (trim line) = true := fun hg => h ((lengthGate_iff _).mp hg)
  simp [shell, hg]

/-- A line that does not begin or end with whitespace is not changed by trimming (R116). -/
theorem trim_eq_self {line : List CodePoint} (hh : ∀ c, line.head? = some c → Config.isWhitespace c = false)
    (hl : ∀ c, line.getLast? = some c → Config.isWhitespace c = false) : trim line = line := by
  have drop_eq : ∀ l : List CodePoint, (∀ c, l.head? = some c → Config.isWhitespace c = false) →
      l.dropWhile Config.isWhitespace = l := by
    intro l h
    cases l with
    | nil => rfl
    | cons c l => simp [h c rfl]
  rw [trim, drop_eq _ hh, drop_eq _ (by simpa using hl), List.reverse_reverse]

end Sys2Proof.Machine
end

