-- ==== Sys2Proof/Laws/Window.lean ====
section
/-! SUPPORT. The register map and the routing of host steps (20_memory.md R31 to R33). -/

namespace Sys2Proof.Machine

open Host

/-- Every register is listed at its own offset (R31). -/
@[simp] theorem registerAt_offset (r : WindowReg) : registerAt r.offset = some r := by
  cases r with
  | cmd => rfl
  | status => rfl
  | faultInfo => rfl
  | countLo => rfl
  | countHi => rfl
  | digest q => revert q; decide
  | rdigest q => revert q; decide
  | key q => revert q; decide

/-- The map names a register only at its offset. -/
theorem registerAt_some {off : Nat} {r : WindowReg} (h : registerAt off = some r) : off = r.offset := by
  have := List.find?_some h
  exact (by simpa using this : r.offset = off).symm

/-- A register lies in the window, at a multiple of 4 (R32 (b)). -/
theorem offset_lt (r : WindowReg) : r.offset ≤ 0x5C ∧ r.offset % 4 = 0 := by
  cases r <;> simp [WindowReg.offset] <;> omega

theorem inWindow_iff (off : Int) : inWindow off = true ↔ 0 ≤ off ∧ off < 128 := by
  have h : ((Config.window : Nat) : Int) = 128 := rfl
  simp only [inWindow, h, Bool.and_eq_true, decide_eq_true_eq]

/-- A legal read reaches its register. -/
@[simp] theorem route_read_offset (r : WindowReg) : route (.read r.offset 4) = .read r := by
  have hw : inWindow (r.offset : Int) = true := by
    have := offset_lt r
    rw [inWindow_iff]; omega
  simp [route, routeRead, hw]

/-- The write of a command word reaches the sequencer with that word (R34, R36). -/
@[simp] theorem route_commandWrite (w : Word) : route (commandWrite w) = .command w := by
  have h : registerAt (0 : Int).toNat = some .cmd := rfl
  have hw : inWindow 0 = true := rfl
  simp only [commandWrite, route, routeWrite, le32_toList, h, hw, if_true, word32_extract]

theorem perform_commandWrite (w : Word) (s : State) :
    perform (commandWrite w) s = andThen (command w s) fun t => .next (t.respond .written) := by
  simp [perform]

theorem perform_read (r : WindowReg) (s : State) :
    perform (.read r.offset 4) s = .next (s.respond (.data (readRegister s.engine r))) := by
  simp [perform]

end Sys2Proof.Machine
end

