-- ==== Sys2Proof/Laws/Step.lean ====
section
/-! SUPPORT. What a command word, a host step and a step of the machine can do, said once. -/

namespace Sys2Proof.Machine

open Host

/-- What any command word can do to the engine (40_commands.md R64), the other fields unchanged. -/
inductive CommandEffect (w : Word) (e : Engine) : Engine → Prop where
  | init (h : decode w = .instr .init) : CommandEffect w e Engine.reset
  | ignored (hd : decode w ≠ .instr .init) (hp : e.phase = .fault) : CommandEffect w e e
  | illegal (why : IllegalWord) (hd : decode w = .illegal why) (hp : e.phase ≠ .fault) :
      CommandEffect w e (e.enterFault .illegalCommand w)
  | outOfSequence (i : Instr) (hd : decode w = .instr i) (hi : i ≠ .init) (hp : e.phase = .done) :
      CommandEffect w e (e.enterFault .sequenceError (encode i))
  | absorbed (cp : CodePoint) (hd : decode w = .instr (.push cp)) (hp : e.phase = .absorb) (hc : cp.toNat < 128) :
      CommandEffect w e (e.absorb (codePointByte cp))
  | notAscii (cp : CodePoint) (hd : decode w = .instr (.push cp)) (hp : e.phase = .absorb) (hc : 128 ≤ cp.toNat) :
      CommandEffect w e (e.enterFault .encodingError (encode (.push cp)))
  | finished (hd : decode w = .instr .final) (hp : e.phase = .absorb) : CommandEffect w e e.finish

/-- Everything a command word can do. -/
theorem command_cases {w : Word} {s t : State} (h : command w s = .next t) :
    ∃ e, CommandEffect w s.engine e ∧ t = s.withEngine e := by
  cases hd : decode w with
  | instr i =>
    simp only [command, hd] at h
    rcases exec_cases h with ⟨rfl, rfl⟩ | ⟨hi, hp, rfl⟩ | ⟨hi, hp, rfl⟩ | ⟨cp, rfl, hp, hc, rfl⟩ | ⟨cp, rfl, hp, hc, rfl⟩ | ⟨rfl, hp, rfl⟩
    · exact ⟨_, .init hd, rfl⟩
    · exact ⟨_, .ignored (by simpa [hd] using hi) hp, rfl⟩
    · exact ⟨_, .outOfSequence i hd hi hp, rfl⟩
    · exact ⟨_, .absorbed cp hd hp hc, rfl⟩
    · exact ⟨_, .notAscii cp hd hp hc, rfl⟩
    · exact ⟨_, .finished hd hp, rfl⟩
  | illegal why =>
    simp only [command, hd] at h
    rcases illegalCommand_cases h with ⟨hp, rfl⟩ | ⟨hp, rfl⟩
    · exact ⟨_, .illegal why hd hp, rfl⟩
    · exact ⟨_, .ignored (by simp [hd]) hp, rfl⟩

/-- Everything a host step can do (20_memory.md R30, R33, R35, R36; 70_reset_and_hazards.md R150). -/
theorem perform_cases {h : HostStep} {s t : State} (hp : perform h s = .next t) :
    (route h = .reset ∧ t = s.withEngine Engine.reset) ∨
    (∃ off, route h = .outside off ∧ t = s.respond (.silent off)) ∨
    (∃ off, route h = .illegal off ∧ t = s.respond (.error off)) ∨
    (∃ r, route h = .read r ∧ t = s.respond (.data (readRegister s.engine r))) ∨
    (∃ w e, route h = .command w ∧ CommandEffect w s.engine e ∧ t = (s.withEngine e).respond .written) := by
  cases hr : route h with
  | reset => simp only [perform, hr] at hp; exact .inl ⟨rfl, by cases hp; rfl⟩
  | outside off => simp only [perform, hr] at hp; exact .inr (.inl ⟨off, rfl, by cases hp; rfl⟩)
  | illegal off => simp only [perform, hr] at hp; exact .inr (.inr (.inl ⟨off, rfl, by cases hp; rfl⟩))
  | read r => simp only [perform, hr] at hp; exact .inr (.inr (.inr (.inl ⟨r, rfl, by cases hp; rfl⟩)))
  | command w =>
    simp only [perform, hr] at hp
    obtain ⟨u, hu, ht⟩ := andThen_next_inv hp
    obtain ⟨e, he, rfl⟩ := command_cases hu
    exact .inr (.inr (.inr (.inr ⟨w, e, rfl, he, by cases ht; rfl⟩)))

/-- Everything a step can do (10_state.md R10): nothing is pending, or the next host step is performed. -/
theorem step_cases {s t : State} (h : step s = .next t) :
    (s.pending = [] ∧ t = s) ∨
    (∃ x xs, s.pending = x :: xs ∧ perform x s.popPending = .next t) := by
  cases hp : s.pending with
  | nil => simp only [step, deliver, hp] at h; exact .inl ⟨rfl, by cases h; rfl⟩
  | cons x xs => simp only [step, deliver, hp] at h; exact .inr ⟨x, xs, rfl, h⟩

end Sys2Proof.Machine
end

