-- ==== Sys2Proof/Laws/Units.lean ====
section
/-! SUPPORT. The three units element by element, so that no proof unfolds them. They are irreducible: never close a goal about an engine after
a compression or a FINAL by `rfl`, the kernel would try to run 64 steps on symbols. -/

namespace Sys2Proof.Machine

/-- `ReverseBytes(d)[i] = d[15 - i]` (42_byte_reversal.md R100). -/
theorem reverseBytes_getElem (d : Digest) (i : Nat) (h : i < 16) : (reverseBytes d)[i] = d[15 - i] := by
  simp [reverseBytes]

/-- The character at an even place is the high half of its byte (43_hex_formatter.md R106). -/
theorem hexLower_even (r : Digest) (i : Nat) (h : i < 16) : (hexLower r)[2 * i] = hexDigit (highHalf r[i]) := by
  have : 2 * i / 2 = i := by omega
  simp [hexLower, this]

/-- The character at an odd place is the low half of its byte (R106). -/
theorem hexLower_odd (r : Digest) (i : Nat) (h : i < 16) : (hexLower r)[2 * i + 1] = hexDigit (lowHalf r[i]) := by
  have h1 : (2 * i + 1) % 2 ≠ 0 := by omega
  have h2 : (2 * i + 1) / 2 = i := by omega
  simp [hexLower, h2]

/-- The padded tail byte by byte (41_md5_engine.md R92). -/
theorem padTail_getElem (n : Nat) (p : Block) (j : Nat) (h : j < 64) :
    (padTail n p)[j] = if j < n then p[j] else if j = n then 0x80 else 0x00 := by
  simp [padTail]

/-- The length bytes, and the bytes before them (R92). -/
theorem putLength_low (len : Count) (p : Block) (j : Nat) (h : j < 56) : (putLength len p)[j] = p[j] := by
  simp [putLength, h]

theorem putLength_high (len : Count) (p : Block) (j : Nat) (h : j < 8) :
    (putLength len p)[56 + j] = (le64 len)[j] := by
  simp [putLength]

/-- One step more of a compression (R91). -/
theorem md5Steps_succ (x : Vector Word 16) (r : Chain) (n : Nat) :
    md5Steps x r (n + 1) = md5Step x (md5Steps x r n) n := by
  simp [md5Steps, List.range_succ]

/-- A message longer by one byte (40_commands.md R68). -/
theorem foldl_absorb_append (e : Engine) (m : List Byte) (b : Byte) :
    (m ++ [b]).foldl Engine.absorb e = (m.foldl Engine.absorb e).absorb b := by
  simp

/-- `STATUS` depends on `PHASE` and `CAUSE` alone (10_state.md R21). -/
theorem Engine.status_congr {e e' : Engine} (hp : e.phase = e'.phase) (hc : e.cause = e'.cause) :
    e.status = e'.status := by
  simp [Engine.status, Engine.doneFlag, Engine.faultFlag, hp, hc]

end Sys2Proof.Machine
end

