-- ==== Sys2Proof/Tests/Slice0.lean ====
section
/-! SUPPORT. The model's own tests. Expected values are the spec's: its encoding tables and 95_test_vectors.md. `witness_` theorems show that the
hypotheses of the statements can be met. -/

namespace Sys2Proof.Tests

open Host Sys2Proof Sys2Proof.Machine

/-! ## WellFormed: an ill-formed number for each check -/

theorem test_codePoint_largest : codePointOk 0x1FFFFF = true := by decide
theorem test_codePoint_too_large : codePointOk 0x200000 = false := by decide
theorem test_commandWord_too_large : commandWordOk 0x100000000 = false := by decide
theorem test_push_too_large : Instr.push? 0x200000 = none := by decide
theorem test_push_in_range : Instr.push? 0x1FFFFF = some (.push 0x1FFFFF) := by decide
theorem test_line_push_too_large : (SourceLine.push 0x200000).wf = false := by decide
theorem test_line_word_too_large : (SourceLine.word 0x100000000).wf = false := by decide
theorem test_line_pushs_too_large : (SourceLine.pushs [0x41, 0x200000]).wf = false := by decide
theorem test_line_derive_too_large : (SourceLine.derive [0x200000]).wf = false := by decide
theorem test_wf_of_every_operand : (Instr.push 0x1FFFFF).wf = true := by decide

/-! ## Decode: words written out from R51 and R53 -/

theorem test_decode_init : decode 0b00010000000000000000000000000000#32 = .instr .init := by decide
theorem test_decode_push : decode 0b00100000000000000000000001000001#32 = .instr (.push 0x41) := by decide
theorem test_decode_push_all_ones : decode 0b00100000000111111111111111111111#32 = .instr (.push 0x1FFFFF) := by decide
theorem test_decode_final : decode 0b00110000000000000000000000000000#32 = .instr .final := by decide
theorem test_decode_rsv_bit_21 : decode 0b00100000001000000000000001000001#32 = .illegal .reservedBits := by decide
theorem test_decode_init_cp_bit : decode 0b00010000000000000000000000000001#32 = .illegal .codePointBits := by decide
theorem test_decode_final_cp_bit : decode 0b00110000000000000000000000000001#32 = .illegal .codePointBits := by decide
theorem test_decode_zero : decode 0x00000000 = .illegal .reservedOpcode := by decide
theorem test_decode_ones : decode 0xFFFFFFFF = .illegal .reservedOpcode := by decide
theorem test_decodeBytes_order : decodeBytes [0x41, 0x00, 0x00, 0x20] = .instr (.push 0x41) := by decide
theorem test_decodeBytes_short : decodeBytes [0x41, 0x00, 0x00] = .illegal .wrongLength := by decide
theorem test_encode_push : encode (.push 0x1FFFFF) = 0x201FFFFF := by decide
theorem test_table_push : decodeTableWord 32 0x2000007F = some (.push 0x7F) := by decide
theorem test_table_illegal : decodeTableWord 32 0x20200041 = none := by decide

/-! ## MD5 unit: 95_test_vectors.md section 4 -/

theorem test_rotl32 : rotl32 0x12345678 7 = 0x1A2B3C09 ∧ rotl32 0x80000000 1 = 0x00000001 := by decide
theorem test_auxI : auxI 0xFFFF0000 0x12345678 0x9ABCDEF0 = 0xEDCB7777 := by decide
theorem test_compress_empty :
    compressF iv (blockOf [0x80]) = ⟨0xD98C1DD4, 0x04B2008F, 0x980980E9, 0x7E42F8EC⟩ := by decide +kernel
/-- Vector V14: 56 characters, two blocks. -/
theorem test_md5_two_blocks : (md5 (List.replicate 56 0x61)).toList =
    [0x3b, 0x0c, 0x8a, 0xc7, 0x03, 0xf8, 0x28, 0xb0, 0x4c, 0x6c, 0x19, 0x70, 0x06, 0xd1, 0x72, 0x18] := by decide +kernel

/-! ## Reversal and hex: sections 6 and 7 -/

theorem test_reverse : (reverseBytes #v[0xff, 0, 0, 0, 0, 0, 0, 0, 0, 0, 0, 0, 0, 0, 0, 1]).toList =
    [1, 0, 0, 0, 0, 0, 0, 0, 0, 0, 0, 0, 0, 0, 0, 0xff] := by decide +kernel
theorem test_hex_high_half_first :
    (hexLower #v[0x0a, 0xe3, 0, 0, 0, 0, 0, 0, 0, 0, 0, 0, 0, 0, 0, 0x7f]).toList.take 4 = [0x30, 0x61, 0x65, 0x33] := by
  decide +kernel

/-! ## Commands -/

/-- A state with the given phase and counter, otherwise as after reset. -/
def stateAt (p : Phase) (n : Count) : State :=
  { State.reset with engine := { Engine.reset with phase := p, count := n } }

/-- What a next state shows. -/
def shows {α : Type} (o : Outcome State Fault Refusal) (f : State → α) : Option α :=
  match o with
  | .next t => some (f t)
  | .fault _ => none
  | .refused _ => none

/-- E2: `PUSH 0x41` stores 0x41. -/
theorem test_push_stores : shows (exec (.push 0x41) State.reset) (fun t => (t.engine.buf[0], t.engine.count)) =
    some (0x41, 1) := by decide
/-- E7: `PUSH 0x141` is not truncated to 0x41. -/
theorem test_push_not_truncated :
    shows (exec (.push 0x141) State.reset) (fun t => (t.engine.status, t.engine.faultInfo, t.engine.count)) =
      some (0x00000102, 0x20000141, 0) := by decide
/-- E24: `INIT` in phase `DONE`. -/
theorem test_init_in_done : shows (exec .init (stateAt .done 3)) (fun t => (t.engine.status, t.engine.count)) = some (0, 0) := by
  decide
/-- E28: `INIT` in phase `FAULT`. -/
theorem test_init_in_fault : shows (exec .init (stateAt .fault 3)) (fun t => t.engine.phase) = some .absorb := by decide
/-- P2: `FINAL` from reset. -/
theorem test_final_empty_message :
    shows (exec .final State.reset) (fun t => (t.engine.status, readRegister t.engine (.digest 0),
      readRegister t.engine (.rdigest 0), readRegister t.engine (.key 0))) =
      some (0x00000001, 0xD98C1DD4, 0xECF8427E, 0x32346537) := by decide +kernel
/-- E21: `SequenceError` outranks `EncodingError`. -/
theorem test_final_in_done : shows (exec .final (stateAt .done 3)) (fun t => (t.engine.status, t.engine.faultInfo)) =
    some (0x00000302, 0x30000000) := by decide
/-- E20: `IllegalCommand` outranks `SequenceError`. -/
theorem test_illegal_in_done :
    shows (step ((stateAt .done 0).withFetchWord 32 0x00000000)) (fun t => t.engine.status) = some 0x00000202 := by decide
/-- E29: a malformed `INIT` is no recovery. -/
theorem test_malformed_init_in_fault :
    shows (step ((stateAt .fault 0).withFetchWord 32 0x10000001)) (fun t => (t.engine.phase, t.pending, t.observed)) =
      some (.fault, [], [.written]) := by decide

/-! ## Accesses: section 8 -/

theorem test_M3_size : route (.read 0x40 1) = .illegal 0x40 := by decide
theorem test_M6_misaligned : route (.read 0x42 4) = .illegal 0x42 := by decide
theorem test_M7_reserved : route (.read 0x0C 4) = .illegal 0x0C := by decide
theorem test_M9_read_only : route (.write 0x04 [0, 0, 0, 0]) = .illegal 0x04 := by decide
theorem test_M11_narrow_write : route (.write 0x00 [0x10]) = .illegal 0x00 := by decide
theorem test_last_register : route (.read 0x5C 4) = .read (.key 7) := by decide
theorem test_first_reserved_after_keys : route (.read 0x60 4) = .illegal 0x60 := by decide
theorem test_last_reserved : route (.read 0x7C 4) = .illegal 0x7C := by decide
theorem test_window_end : route (.read 0x80 4) = .outside 0x80 := by decide
theorem test_window_before : route (.read (-4) 4) = .outside (-4) := by decide
/-- R134: a host program faults at an access that is not legal. -/
theorem test_program_faults :
    (match runProgram [.read 0x40 1] State.reset with | .fault f => some f | _ => none) = some (.accessFault 0x40) := by decide

/-! ## Host: the driver -/

/-- Vector H4: one character above the range. -/
theorem test_driver_encoding_error :
    (match hostDerive [0x80] State.reset with | .next t => some t.2 | _ => none) = some (.error 1 0x20000080) := by
  decide +kernel
/-- Vector V3, the key of "a". -/
theorem test_driver_key :
    (match hostDerive [0x61] State.reset with | .next (_, .ok k) => k.take 4 | _ => []) = [0x36, 0x31, 0x32, 0x36] := by
  decide +kernel

/-- Vector H8, T7: 17 letters do not pass the length gate. -/
theorem test_gate_17 : lengthGate (trim (letters 17)) = false := by decide +kernel
/-- T6, H9: the 16 letters with two spaces at each end. -/
theorem test_trim_spaces : trim ([0x20, 0x20] ++ letters 16 ++ [0x20, 0x20]) = letters 16 := by decide +kernel
/-- Vector H5: 15 letters and U+00E9 end in the unhandled fault at the sixteenth `PUSH`. -/
theorem test_shell_H5 :
    shows (andThen (shell (letters 15 ++ [0xE9]) State.reset) fun t => .next t.1)
      (fun t => (t.engine.status, t.engine.faultInfo, t.engine.count)) = some (0x00000102, 0x200000E9, 15) := by decide +kernel
/-- Vector H6: U+0141 and 15 letters end in it at the first. -/
theorem test_shell_H6 :
    shows (andThen (shell (0x141 :: (letters 16).drop 1) State.reset) fun t => .next t.1)
      (fun t => (t.engine.status, t.engine.faultInfo, t.engine.count)) = some (0x00000102, 0x20000141, 0) := by decide +kernel

/-! ## Witnesses: the hypotheses of the statements can be met, at the boundaries of each clause -/

theorem witness_decode_some : decode 0x2000007F = .instr (.push 0x7F) := by decide
theorem witness_reserved_opcode_zero : (0x00000000 : Word).extractLsb' 28 4 = 0 := by decide
theorem witness_reserved_opcode_four : 4 ≤ ((0x40000000 : Word).extractLsb' 28 4).toNat := by decide
theorem witness_op_one_other_bit :
    (0x10000001 : Word).extractLsb' 28 4 = 1 ∧ (0x10000001 : Word).extractLsb' 0 28 ≠ 0 := by decide
theorem witness_init_next : exec .init State.reset = .next State.reset := rfl
theorem witness_nonAscii_smallest : 0x20000080 ≤ (0x20000080 : Word).toNat ∧ (0x20000080 : Word).toNat ≤ 0x201FFFFF ∧
    State.reset.engine.phase = .absorb := by decide
theorem witness_nonAscii_largest : 0x20000080 ≤ (0x201FFFFF : Word).toNat ∧ (0x201FFFFF : Word).toNat ≤ 0x201FFFFF := by
  decide
theorem witness_push_largest_ascii : (127 : CodePoint).toNat < 128 ∧ (stateAt .absorb 63).engine.phase = .absorb ∧
    (stateAt .absorb 63).engine.count.toNat % 64 = 63 := by decide
theorem witness_push_count_wraps : (0 : CodePoint).toNat < 128 ∧ (stateAt .absorb (-1)).engine.phase = .absorb ∧
    ((stateAt .absorb (-1)).engine.count.toNat + 1) % 2 ^ 64 = 0 := by decide
theorem witness_final_one_block : (stateAt .absorb 55).engine.phase = .absorb ∧ (stateAt .absorb 55).engine.count.toNat % 64 ≤ 55 := by
  decide
theorem witness_final_two_blocks : (stateAt .absorb 56).engine.phase = .absorb ∧ 56 ≤ (stateAt .absorb 56).engine.count.toNat % 64 := by
  decide
theorem witness_done : Instr.push 0x80 ≠ .init ∧ Instr.final ≠ .init ∧ (stateAt .done 1).engine.phase = .done := by decide
theorem witness_fault_cause : Cause.encodingError ≠ .none ∧ Cause.sequenceError ≠ .none := by decide
theorem witness_fault_phase_kept : perform (.read 0x04 4) (stateAt .fault 0) =
    .next ((stateAt .fault 0).respond (.data (readRegister (stateAt .fault 0).engine .status))) ∧
    (stateAt .fault 0).engine.phase = .fault := ⟨perform_read .status _, rfl⟩
theorem witness_fault_left : perform .reset (stateAt .fault 5) = .next State.reset ∧ (stateAt .fault 5).engine.phase = .fault ∧
    State.reset.engine.phase ≠ .fault := ⟨rfl, rfl, by decide⟩
theorem witness_ignored_words : (stateAt .fault 0).engine.phase = .fault ∧
    ∀ w ∈ [(0x10000001 : Word), 0x20000041, 0x30000000, 0x00000000], w ≠ 0x10000000 := by
  refine ⟨rfl, ?_⟩
  simp
theorem witness_illegal_in_fault : (stateAt .fault 0).engine.phase = .fault ∧ route (.write 0x7F [0]) = .illegal 0x7F := by decide
theorem witness_write_not_legal_in_range : (0 : Int) ≤ 0 ∧ (0 : Int) < 128 ∧ ([0x10, 0, 0] : List Byte).length ≠ 4 := by decide
theorem witness_write_other_register : (0 : Int) ≤ 127 ∧ (127 : Int) < 128 ∧ (127 : Int) ≠ 0 := by decide
theorem witness_read_reserved : (0 : Int) ≤ 0x7C ∧ (0x7C : Int) < 128 ∧ (0x60 : Int) ≤ 0x7C := by decide
theorem witness_outside_below : (-1 : Int) < 0 ∨ 128 ≤ (-1 : Int) := by decide
theorem witness_outside_above : (128 : Int) < 0 ∨ 128 ≤ (128 : Int) := by decide
theorem witness_status_cause : CauseExactlyInFault Engine.reset := by decide
theorem witness_sound_not_done : EngineSound State.reset.engine ∧ State.reset.engine.phase ≠ .done :=
  ⟨⟨by decide, fun _ => rfl, fun _ => ⟨rfl, rfl, rfl⟩, (fun h => nomatch h), fun _ _ h => absurd h (Nat.not_lt_zero _)⟩, by decide⟩
theorem witness_sound_step : ∃ t, EngineSound State.reset.engine ∧ step (State.reset.withFetchWord 32 0x10000000) = .next t :=
  ⟨_, witness_sound_not_done.1, rfl⟩
theorem witness_pending_command : ∃ s : State, ∃ rest, s.pending = commandWrite 0x10000000 :: rest ∧
    decode 0x10000000 = .instr .init := ⟨{ State.reset with pending := [commandWrite 0x10000000] }, [], rfl, by decide⟩
theorem witness_placed_word : decodeTableWord 32 0x30000000 = some .final := by decide
theorem witness_nothing_pending : State.reset.pending = [] := rfl
/-- A step that changes registers, `COUNT` among them, by an accepted `PUSH`. -/
theorem witness_count_changes :
    shows (step ((stateAt .absorb 0).withFetchWord 32 0x20000041)) (fun t => t.engine.count) = some 1 := by decide
/-- A step that clears `COUNT`. -/
theorem witness_count_cleared :
    shows (step ((stateAt .absorb 5).withFetchWord 32 0x10000000)) (fun t => t.engine.count) = some 0 := by decide
/-- A step that clears it by the reset input. -/
theorem witness_count_cleared_by_reset :
    shows (step { stateAt .absorb 5 with pending := [.reset] }) (fun t => t.engine.count) = some 0 := by decide
/-- A step that writes the outputs. -/
theorem witness_outputs_written :
    shows (step (State.reset.withFetchWord 32 0x30000000)) (fun t => (t.engine.phase, decide (t.engine.key = Engine.reset.key))) =
      some (.done, false) := by decide +kernel
theorem witness_shows_message : ShowsMessage State.reset.engine := ⟨[], (fun _ h => nomatch h), rfl⟩
theorem witness_buffered : (3 : Nat) < ([0x41, 0x42, 0x43, 0x44] : List Byte).length % 64 := by decide
theorem witness_words_V1 : ∃ e : Engine, e.digest = digestBytes ⟨0xFF8EFC19, 0x1F7F0382, 0x1DEAD8C0, 0x39E3B532⟩ ∧
    e.rdigest = reverseBytes e.digest :=
  ⟨(Engine.reset.withDigest (digestBytes ⟨0xFF8EFC19, 0x1F7F0382, 0x1DEAD8C0, 0x39E3B532⟩)).writeReversed, by simp, by simp⟩
theorem witness_block_words : (blockWords (blockOf [0x41, 0x42, 0x43, 0x44, 0x45, 0x46, 0x47, 0x48]))[0] = 0x44434241 ∧
    (blockWords (blockOf [0x41, 0x42, 0x43, 0x44, 0x45, 0x46, 0x47, 0x48]))[1] = 0x48474645 ∧
    (blockWords (blockOf [0x41, 0x42, 0x43, 0x44, 0x45, 0x46, 0x47, 0x48]))[5] = 0 := by decide +kernel
theorem witness_key_text : ∃ k : Key, k.toList.take 8 = [0x33, 0x39, 0x65, 0x33, 0x62, 0x35, 0x33, 0x32] :=
  ⟨Vector.ofFn fun j => [0x33, 0x39, 0x65, 0x33, 0x62, 0x35, 0x33, 0x32].getD j.val 0, by decide +kernel⟩
theorem witness_equal_prints : hexLower (Vector.replicate 16 0) = hexLower (Vector.replicate 16 0) := rfl
theorem witness_ascii_string : ∀ c ∈ ([0, 127] : List CodePoint), c.toNat < 128 := by simp
theorem witness_nonAscii_string : ∃ c ∈ ([0x41, 0x80] : List CodePoint), 128 ≤ c.toNat := ⟨0x80, by simp, by decide⟩
theorem witness_message_length : ([] : List CodePoint).length < 2 ^ 61 := by decide
theorem witness_hidden : (stateAt .done 1).engine.phase ≠ .absorb ∧ (stateAt .fault 1).engine.phase ≠ .absorb := by decide
theorem witness_rotate_range : 4 ≤ 23 ∧ 23 ≤ 23 := by decide
theorem witness_line_too_large : 0x1FFFFF < 0x200000 ∧ 0xFFFFFFFF < 0x100000000 := by decide

theorem witness_gated_line : (trim (letters 17)).length ≠ 16 := by decide +kernel
/-- 15 letters (vector H7), the longest of the short lines; their last one is not fixed, so that they may be trimmed. -/
theorem witness_short_line : (letters 15).length < 16 ∧ (trim (letters 15)).length ≠ 16 :=
  have h : (letters 15).length < 16 := by decide
  ⟨h, (Nat.lt_of_le_of_lt (trim_length_le _) h).ne⟩
theorem witness_safe_program : SafeProgram [commandWrite 0x10000000, .reset] := by
  intro h hm off
  rcases List.mem_cons.mp hm with rfl | hm
  · simp
  · rw [List.mem_singleton.mp hm]; simp [route]

end Sys2Proof.Tests
end

section
/-! PROOFS. The reset state and the `STATUS` view (10_state.md R21, R24, R29): the rules, then the two statements of the family. -/

namespace Sys2Proof.Machine

open Host

/-! ## Leaving the reset state (R65, R150) -/

/-- `INIT` completes in every phase, in the reset registers. -/
theorem exec_init (s : State) : exec .init s = .next (s.withEngine Engine.reset) := rfl

/-- The reset input leaves the reset registers, and the bus as it was. -/
theorem perform_reset (s : State) : perform .reset s = .next (s.withEngine Engine.reset) := rfl

/-! ## The flags and `STATUS` (R21, R24) -/

@[simp] theorem Engine.doneFlag_iff (e : Engine) : e.doneFlag = true ↔ e.phase = .done := by
  simp [Engine.doneFlag]

@[simp] theorem Engine.faultFlag_iff (e : Engine) : e.faultFlag = true ↔ e.phase = .fault := by
  simp [Engine.faultFlag]

/-- `STATUS` bit by bit. -/
theorem Engine.status_getLsbD (e : Engine) (i : Nat) :
    e.status.getLsbD i =
      if i = 0 then e.doneFlag else if i = 1 then e.faultFlag else if i < 8 then false
      else if i < 12 then e.cause.code.getLsbD (i - 8) else false := by
  unfold Engine.status
  simp only [BitVec.getLsbD_append, BitVec.getLsbD_ofBool]
  grind

/-- A field of `STATUS` from its bits. -/
theorem Engine.status_field {e : Engine} {low n : Nat} {v : BitVec n}
    (h : ∀ i < n, e.status.getLsbD (low + i) = v.getLsbD i) : e.status.extractLsb' low n = v := by
  apply BitVec.eq_of_getLsbD_eq
  intro i hi
  simpa only [BitVec.getLsbD_extractLsb', hi, decide_true, Bool.true_and] using h i hi

/-- Bits 7:2 are reserved. -/
theorem Engine.status_low_reserved (e : Engine) : e.status.extractLsb' 2 6 = 0 :=
  Engine.status_field fun i hi => by rw [Engine.status_getLsbD]; grind

/-- Bits 11:8 are `CAUSE`. -/
theorem Engine.status_cause (e : Engine) : e.status.extractLsb' 8 4 = e.cause.code :=
  Engine.status_field fun i hi => by rw [Engine.status_getLsbD]; grind

/-- Bits 31:12 are reserved. -/
theorem Engine.status_high_reserved (e : Engine) : e.status.extractLsb' 12 20 = 0 :=
  Engine.status_field fun i hi => by rw [Engine.status_getLsbD]; grind

theorem Engine.status_of_absorb {e : Engine} (hp : e.phase = .absorb) (hc : e.cause = .none) : e.status = 0x00000000 := by
  rw [Engine.status, Engine.doneFlag, Engine.faultFlag, hp, hc]; rfl

theorem Engine.status_of_done {e : Engine} (hp : e.phase = .done) (hc : e.cause = .none) : e.status = 0x00000001 := by
  rw [Engine.status, Engine.doneFlag, Engine.faultFlag, hp, hc]; rfl

/-- In phase `FAULT`: the flag, and `CAUSE` above it. -/
theorem Engine.status_of_fault {e : Engine} (hp : e.phase = .fault) :
    e.status = 0x00000002 ||| (e.cause.code.setWidth 32 <<< 8) := by
  rw [Engine.status, Engine.doneFlag, Engine.faultFlag, hp]
  cases e.cause <;> rfl

/-- The five values `STATUS` can read (R21), each by its phase and, in phase `FAULT`, its cause. -/
theorem Engine.status_mem {e : Engine} (h : CauseExactlyInFault e) :
    e.status ∈ [0x00000000, 0x00000001, 0x00000102, 0x00000202, (0x00000302 : Word)] := by
  have hc : e.phase ≠ .fault → e.cause = .none := fun hp => by_contra fun hc => hp (h.mp hc)
  cases hp : e.phase with
  | absorb => simp [Engine.status_of_absorb hp (hc (by simp [hp]))]
  | done => simp [Engine.status_of_done hp (hc (by simp [hp]))]
  | fault =>
    rw [Engine.status_of_fault hp]
    cases hcause : e.cause with
    | none => exact absurd hcause (h.mpr hp)
    | encodingError => decide
    | illegalCommand => decide
    | sequenceError => decide

/-! ## Only `CMD` can be written (20_memory.md R32 (d)) -/

/-- A write to any other register is not legal, with any bytes. -/
theorem route_write_ne_cmd {r : WindowReg} (h : r ≠ .cmd) (bytes : List Byte) :
    route (.write r.offset bytes) = .illegal r.offset := by
  have hw : inWindow (r.offset : Int) = true := by
    have := offset_lt r
    rw [inWindow_iff]; omega
  simp only [route, routeWrite, hw, if_true, Int.toNat_natCast, registerAt_offset]
  split
  next hr => exact absurd (Option.some.inj hr) h
  next => rfl

/-- Such a write gets the error response and changes no register (R33). -/
theorem perform_write_ne_cmd {r : WindowReg} (h : r ≠ .cmd) (bytes : List Byte) (s : State) :
    perform (.write r.offset bytes) s = .next (s.respond (.error r.offset)) := by
  simp only [perform, route_write_ne_cmd h]

end Sys2Proof.Machine

namespace Sys2Proof.Proofs

open Host Sys2Proof Sys2Proof.Machine

/-- Settles O8: the reset table is the definition of the reset registers, and `INIT` and the reset input lead there. -/
theorem resetRegisterValues : Obligations.ResetRegisterValues :=
  ⟨rfl, Engine.status_of_absorb Engine.reset_phase Engine.reset_cause, exec_init, perform_reset⟩

/-- Settles O25: the fields from `STATUS` bit by bit, the values by phase and cause. -/
theorem statusView : Obligations.StatusView := by
  refine ⟨fun e => ⟨?_, ?_, e.status_low_reserved, e.status_cause, e.status_high_reserved⟩,
    Engine.status_of_absorb Engine.reset_phase Engine.reset_cause, fun _ => Engine.status_mem, fun bytes s => ?_⟩
  · rw [Engine.status_getLsbD]; simp
  · rw [Engine.status_getLsbD]; simp
  · exact perform_write_ne_cmd (r := .status) (by simp) bytes s

end Sys2Proof.Proofs
end

section
/-! PROOFS. The register window (20_memory.md R31 to R36): which accesses are legal, what the others do, the bytes of the registers, and the
write of a command word; then the five statements of the family. -/

namespace Sys2Proof.Machine

open Host

/-! ## The register map (R31, R32) -/

/-- No two registers share an offset. -/
theorem offset_injective {r r' : WindowReg} (h : r.offset = r'.offset) : r = r' := by
  have hr : registerAt r.offset = some r' := by rw [h, registerAt_offset]
  exact Option.some.inj ((registerAt_offset r).symm.trans hr)

/-- The map lists every register. -/
theorem mem_windowMap (r : WindowReg) : r ∈ windowMap :=
  List.mem_of_find?_eq_some (registerAt_offset r)

/-- The offsets of the registers: 0x0C, 0x18 and 0x1C are reserved, and all from 0x60 on. -/
theorem exists_offset_iff (n : Nat) : (∃ r : WindowReg, r.offset = n) ↔
    (n % 4 = 0 ∧ (n ≤ 0x08 ∨ n = 0x10 ∨ n = 0x14 ∨ (0x20 ≤ n ∧ n ≤ 0x5C))) := by
  constructor
  · rintro ⟨r, rfl⟩
    cases r <;> simp [WindowReg.offset] <;> omega
  · rintro ⟨h4, hlow | rfl | rfl | ⟨hge, hle⟩⟩
    · obtain rfl | rfl | rfl : n = 0 ∨ n = 4 ∨ n = 8 := by omega
      · exact ⟨.cmd, rfl⟩
      · exact ⟨.status, rfl⟩
      · exact ⟨.faultInfo, rfl⟩
    · exact ⟨.countLo, rfl⟩
    · exact ⟨.countHi, rfl⟩
    · by_cases hd : n < 0x30
      · exact ⟨.digest ⟨(n - 0x20) / 4, by omega⟩, by simp only [WindowReg.offset]; omega⟩
      by_cases hr : n < 0x40
      · exact ⟨.rdigest ⟨(n - 0x30) / 4, by omega⟩, by simp only [WindowReg.offset]; omega⟩
      · exact ⟨.key ⟨(n - 0x40) / 4, by omega⟩, by simp only [WindowReg.offset]; omega⟩

/-! ## The bytes of a word (00_scope.md R8) -/

/-- A field of a field. -/
theorem extractLsb'_extractLsb'_add {w : Nat} (x : BitVec w) {a n b m : Nat} (h : b + m ≤ n) :
    (x.extractLsb' a n).extractLsb' b m = x.extractLsb' (a + b) m := by
  apply BitVec.eq_of_getLsbD_eq
  intro i hi
  have hn : b + i < n := by omega
  simp [hi, hn, Nat.add_assoc]

/-- A byte of a word from its bits. -/
theorem word32_field {b0 b1 b2 b3 b : Byte} {low : Nat}
    (h : ∀ i < 8, (word32 b0 b1 b2 b3).getLsbD (low + i) = b.getLsbD i) :
    (word32 b0 b1 b2 b3).extractLsb' low 8 = b := by
  apply BitVec.eq_of_getLsbD_eq
  intro i hi
  simpa only [BitVec.getLsbD_extractLsb', hi, decide_true, Bool.true_and] using h i hi

@[simp] theorem word32_byte_zero (b0 b1 b2 b3 : Byte) : (word32 b0 b1 b2 b3).extractLsb' 0 8 = b0 :=
  word32_field fun i hi => by rw [word32_getLsbD]; grind
@[simp] theorem word32_byte_one (b0 b1 b2 b3 : Byte) : (word32 b0 b1 b2 b3).extractLsb' 8 8 = b1 :=
  word32_field fun i hi => by rw [word32_getLsbD]; grind
@[simp] theorem word32_byte_two (b0 b1 b2 b3 : Byte) : (word32 b0 b1 b2 b3).extractLsb' 16 8 = b2 :=
  word32_field fun i hi => by rw [word32_getLsbD]; grind
@[simp] theorem word32_byte_three (b0 b1 b2 b3 : Byte) : (word32 b0 b1 b2 b3).extractLsb' 24 8 = b3 :=
  word32_field fun i hi => by rw [word32_getLsbD]; grind

/-- Four bytes, made a word and taken apart again (R8: `le32` is the inverse of `word32`). -/
theorem le32_word32 (b0 b1 b2 b3 : Byte) : (le32 (word32 b0 b1 b2 b3)).toList = [b0, b1, b2, b3] := by
  simp [le32_toList]

/-! ## The legal accesses (R32) -/

theorem route_read_outside {off : Int} (h : ¬ inWindow off = true) (size : Nat) :
    route (.read off size) = .outside off := by
  simp [route, routeRead, h]

theorem route_write_outside {off : Int} (h : ¬ inWindow off = true) (bytes : List Byte) :
    route (.write off bytes) = .outside off := by
  simp [route, routeWrite, h]

/-- A read in the window is the read of a register, or it is not legal. -/
theorem route_read_inWindow {off : Int} (h : inWindow off = true) (size : Nat) :
    (∃ r : WindowReg, size = 4 ∧ off = r.offset) ∨ route (.read off size) = .illegal off := by
  have hoff : 0 ≤ off := ((inWindow_iff off).mp h).1
  simp only [route, routeRead, h, if_true]
  split
  next r hr =>
    have := registerAt_some hr
    exact .inl ⟨r, rfl, by omega⟩
  next => exact .inr rfl

/-- A write in the window is the write of a word to `CMD`, or it is not legal. -/
theorem route_write_inWindow {off : Int} (h : inWindow off = true) (bytes : List Byte) :
    (∃ w : Word, off = 0 ∧ bytes = (le32 w).toList) ∨ route (.write off bytes) = .illegal off := by
  have hoff : 0 ≤ off := ((inWindow_iff off).mp h).1
  simp only [route, routeWrite, h, if_true]
  split
  next b0 b1 b2 b3 hr =>
    have : off.toNat = 0 := registerAt_some hr
    exact .inl ⟨word32 b0 b1 b2 b3, by omega, (le32_word32 b0 b1 b2 b3).symm⟩
  next => exact .inr rfl

/-- R32 (a) to (c): the reads that reach a register. -/
theorem route_read_iff (off : Int) (size : Nat) (r : WindowReg) :
    route (.read off size) = .read r ↔ (size = 4 ∧ off = r.offset) := by
  constructor
  · intro hr
    by_cases hw : inWindow off = true
    · rcases route_read_inWindow hw size with ⟨r', rfl, rfl⟩ | hi
      · rw [route_read_offset] at hr
        exact ⟨rfl, by rw [Route.read.inj hr]⟩
      · exact absurd (hi.symm.trans hr) (by simp)
    · exact absurd ((route_read_outside hw size).symm.trans hr) (by simp)
  · rintro ⟨rfl, rfl⟩
    exact route_read_offset r

/-- R32 (d): the writes that reach the sequencer. -/
theorem route_write_iff (off : Int) (bytes : List Byte) (w : Word) :
    route (.write off bytes) = .command w ↔ (off = 0 ∧ bytes = (le32 w).toList) := by
  constructor
  · intro hr
    by_cases hw : inWindow off = true
    · rcases route_write_inWindow hw bytes with ⟨w', rfl, rfl⟩ | hi
      · have hc : Route.command w' = .command w := (route_commandWrite w').symm.trans hr
        exact ⟨rfl, by rw [Route.command.inj hc]⟩
      · exact absurd (hi.symm.trans hr) (by simp)
    · exact absurd ((route_write_outside hw bytes).symm.trans hr) (by simp)
  · rintro ⟨rfl, rfl⟩
    exact route_commandWrite w

/-! ## The accesses that are not legal (R33, 60_exceptions.md R134) -/

/-- The error response and nothing else; a host program stops at the access. -/
theorem illegal_access {h : HostStep} {off : Int} (hr : route h = .illegal off) (s : State) (rest : List HostStep) :
    perform h s = .next (s.respond (.error off)) ∧ runProgram (h :: rest) s = .fault (.accessFault off) := by
  simp only [perform, runProgram, hr, and_self]

/-! ## Bytes of the window (R34) -/

/-- The window's bytes are those of the registers, each register little-endian. -/
theorem windowByte_offset (e : Engine) (r : WindowReg) {k : Nat} (hk : k < 4) :
    windowByte e (r.offset + k) = some ((readRegister e r).extractLsb' (8 * k) 8) := by
  have h4 := (offset_lt r).2
  have hmod : (r.offset + k) % 4 = k := by omega
  simp [windowByte, hmod]

/-- Four consecutive bytes read as one register are found again at its four places. -/
theorem word32_slice_byte {m : Nat} (v : Vector Byte (4 * m)) (q : Fin m) (k : Fin 4) :
    (word32 v[4 * q.val] v[4 * q.val + 1] v[4 * q.val + 2] v[4 * q.val + 3]).extractLsb' (8 * k.val) 8 =
      v[4 * q.val + k.val] := by
  match k with
  | 0 => exact word32_byte_zero ..
  | 1 => exact word32_byte_one ..
  | 2 => exact word32_byte_two ..
  | 3 => exact word32_byte_three ..

/-- An array of bytes shown by consecutive registers stands in the window in index order. -/
theorem windowByte_array {m : Nat} {e : Engine} {v : Vector Byte (4 * m)} {reg : Fin m → WindowReg} {start : Nat}
    (hoff : ∀ q, (reg q).offset = start + 4 * q.val)
    (hread : ∀ q, readRegister e (reg q) =
      word32 v[4 * q.val] v[4 * q.val + 1] v[4 * q.val + 2] v[4 * q.val + 3])
    (i : Fin (4 * m)) : windowByte e (start + i.val) = some v[i.val] := by
  let q : Fin m := ⟨i.val / 4, by omega⟩
  let k : Fin 4 := ⟨i.val % 4, by omega⟩
  have hi : 4 * q.val + k.val = i.val := Nat.div_add_mod i.val 4
  calc windowByte e (start + i.val) = windowByte e ((reg q).offset + k.val) := by rw [hoff, Nat.add_assoc, hi]
    _ = some v[4 * q.val + k.val] := by rw [windowByte_offset e _ k.isLt, hread, word32_slice_byte]
    _ = some v[i.val] := by simp only [hi]

/-- `COUNT` stands in the window with its low half first (R31). -/
theorem windowByte_count (e : Engine) (k : Fin 8) :
    windowByte e (0x10 + k.val) = some (e.count.extractLsb' (8 * k.val) 8) := by
  by_cases hk : k.val < 4
  · rw [show 0x10 + k.val = WindowReg.countLo.offset + k.val from rfl, windowByte_offset e _ hk, readRegister,
      extractLsb'_extractLsb'_add _ (by omega), Nat.zero_add]
  · have hoff : 0x10 + k.val = WindowReg.countHi.offset + (k.val - 4) := by simp only [WindowReg.offset]; omega
    have hbit : 32 + 8 * (k.val - 4) = 8 * k.val := by omega
    rw [hoff, windowByte_offset e _ (by omega), readRegister, extractLsb'_extractLsb'_add _ (by omega), hbit]

/-! ## The write of a command word (R36) -/

/-- The phase check answers a next state in every phase, which differs in the engine's registers alone (40_commands.md R64). -/
theorem sequenced_next (w : Word) (f : Engine → Engine) (s : State) :
    ∃ e, sequenced w f s = .next (s.withEngine e) := by
  cases hp : s.engine.phase with
  | absorb => exact ⟨_, sequenced_absorb hp⟩
  | done => exact ⟨_, sequenced_done hp⟩
  | fault => exact ⟨s.engine, sequenced_fault hp⟩

theorem illegalCommand_next (w : Word) (s : State) : ∃ e, illegalCommand w s = .next (s.withEngine e) := by
  cases hp : s.engine.phase with
  | absorb => exact ⟨s.engine.enterFault .illegalCommand w, by simp only [illegalCommand, hp]⟩
  | done => exact ⟨s.engine.enterFault .illegalCommand w, by simp only [illegalCommand, hp]⟩
  | fault => exact ⟨s.engine, by simp only [illegalCommand, hp, State.withEngine_self]⟩

theorem exec_next (i : Instr) (s : State) : ∃ e, exec i s = .next (s.withEngine e) := by
  cases i with
  | init => exact ⟨_, exec_init s⟩
  | push cp => exact sequenced_next (encode (.push cp)) (fun e => e.takeCharacter cp (encode (.push cp))) s
  | final => exact sequenced_next (encode .final) Engine.finish s

/-- No word stops the engine, in any state, and none changes more than its registers (R64, 30_encoding.md R55). -/
theorem command_next (w : Word) (s : State) : ∃ e, command w s = .next (s.withEngine e) := by
  cases hd : decode w with
  | instr i => simpa only [command, hd] using exec_next i s
  | illegal why => simpa only [command, hd] using illegalCommand_next w s

/-- The write of a command word completes with OK, the command's whole effect in the state. -/
theorem perform_commandWrite_of_command {w : Word} {s : State} {e : Engine} (h : command w s = .next (s.withEngine e)) :
    perform (commandWrite w) s = .next ((s.withEngine e).respond .written) := by
  rw [perform_commandWrite, h, andThen_next]

/-- Two host steps one after the other. -/
theorem runSteps_pair {x y : HostStep} {s t u : State} (hx : perform x s = .next t) (hy : perform y t = .next u) :
    runSteps [x, y] s = .next u := by
  simp only [runSteps, hx, hy, andThen_next]

/-- The decoder reads a `PUSH` from its encoding (30_encoding.md R53). -/
theorem decode_encode_push (cp : CodePoint) : decode (encode (.push cp)) = .instr (.push cp) := by
  have hrow : encode (.push cp) &&& 0xFFE00000 = 0x20000000 := by
    simpa [Laws.SelectsRow.Statement, OpcodeRow.selects, opcodeRow] using Laws.SelectsRow.push cp
  have hinit : encode (.push cp) ≠ 0x10000000 := fun h => absurd (h ▸ hrow) (by decide)
  have hcp : cpField (encode (.push cp)) = cp := by
    apply BitVec.eq_of_getLsbD_eq
    intro i hi
    have hop : ∀ j < 21, (0x20000000 : Word).getLsbD j = false := by decide
    have h32 : i < 32 := by omega
    simp only [cpField, encode, BitVec.getLsbD_extractLsb', BitVec.getLsbD_or, BitVec.getLsbD_setWidth, Nat.zero_add,
      hop i hi, hi, h32, decide_true, Bool.true_and, Bool.false_or]
  rw [decode, if_neg hinit, if_pos hrow, hcp]

/-- An accepted `PUSH`, written by the host in phase `ABSORB` (40_commands.md R66). -/
theorem perform_push_ascii {cp : CodePoint} {s : State} (hc : cp.toNat < 128) (hp : s.engine.phase = .absorb) :
    perform (commandStep (.push cp)) s =
      .next ((s.withEngine (s.engine.absorb (codePointByte cp))).respond .written) := by
  apply perform_commandWrite_of_command
  simp only [command, decode_encode_push, exec, execPush]
  rw [sequenced_absorb hp]
  rcases takeCharacter_cases s.engine cp (encode (.push cp)) with ⟨-, ht⟩ | ⟨hn, -⟩
  · rw [ht]
  · omega

end Sys2Proof.Machine

namespace Sys2Proof.Proofs

open Host Sys2Proof Sys2Proof.Machine

/-- Settles O18: the routing of each access read in both directions, and the register map. -/
theorem legalAccessesExactly : Obligations.LegalAccessesExactly :=
  ⟨route_read_iff, route_write_iff, exists_offset_iff, fun _ _ => offset_injective, rfl, by decide, mem_windowMap⟩

/-- Settles O19: each of these accesses fails the test of R32, so the bus answers it with the error response. -/
theorem illegalAccessChangesNothing : Obligations.IllegalAccessChangesNothing := by
  refine ⟨fun off size s rest h0 h128 hbad => ?_, fun off bytes s rest h0 h128 hbad => ?_⟩
  · rcases route_read_inWindow ((inWindow_iff off).mpr ⟨h0, h128⟩) size with ⟨r, hsize, hoff⟩ | hr
    · have hnamed := (exists_offset_iff r.offset).mp ⟨r, rfl⟩
      omega
    · exact illegal_access hr s rest
  · rcases route_write_inWindow ((inWindow_iff off).mpr ⟨h0, h128⟩) bytes with ⟨w, hoff, rfl⟩ | hr
    · exact absurd hbad (by simp [hoff])
    · exact illegal_access hr s rest

/-- Settles O22: every register by its four bytes; the arrays by the registers that show them. -/
theorem windowIsLittleEndian : Obligations.WindowIsLittleEndian := by
  refine ⟨fun e r k => windowByte_offset e r k.isLt,
    fun e => windowByte_array (m := 4) (v := e.digest) (reg := .digest) (fun _ => rfl) (fun _ => rfl),
    fun e => windowByte_array (m := 4) (v := e.rdigest) (reg := .rdigest) (fun _ => rfl) (fun _ => rfl),
    fun e => windowByte_array (m := 8) (v := e.key) (reg := .key) (fun _ => rfl) (fun _ => rfl),
    windowByte_count, fun b0 b1 b2 b3 => ?_, fun off size r hsize hr => hsize ((route_read_iff off size r).mp hr).1⟩
  exact ⟨word32 b0 b1 b2 b3, (route_write_iff ..).mpr ⟨rfl, (le32_word32 b0 b1 b2 b3).symm⟩, by simp⟩

/-- Settles O24: a command changes the engine's registers alone and never stops; a `PUSH` leaves phase `ABSORB` as it is, so the second
one is accepted as the first. -/
theorem commandWriteCompletes : Obligations.CommandWriteCompletes := by
  refine ⟨fun w s => ?_, fun cp s hc hp => ?_⟩
  · obtain ⟨e, he⟩ := command_next w s
    have hw := perform_commandWrite_of_command he
    exact ⟨e, he, hw, fun r => runSteps_pair hw (perform_read r _)⟩
  · refine ⟨_, runSteps_pair (perform_push_ascii hc hp) (perform_push_ascii hc ?_), ?_, ?_⟩
    · simpa using hp
    · simpa using hp
    · simp [BitVec.add_assoc]

/-- Settles O23: a read gives its response and touches no register, so a second one sees the same registers. -/
theorem readsHaveNoEffect : Obligations.ReadsHaveNoEffect :=
  ⟨fun r s => ⟨perform_read r s, runSteps_pair (perform_read r s) (perform_read r _)⟩,
    fun _ => ⟨rfl, rfl, rfl⟩,
    fun s => ⟨perform_read .cmd s, perform_read .status s, perform_read .faultInfo s⟩⟩

end Sys2Proof.Proofs
end

section
/-! PROOFS. The opcode map (30_encoding.md R51 to R56): the fields of a word, the words of each row, what an illegal word and a character
at or above 128 do; then the three statements of the family. -/

namespace Sys2Proof

/-! ## The fields of a word (R51) -/

/-- A word is its three fields side by side. -/
theorem toNat_eq_fields (w : Word) :
    w.toNat = (opField w).toNat * 2 ^ 28 + (rsvField w).toNat * 2 ^ 21 + (cpField w).toNat := by
  simp only [opField, rsvField, cpField, BitVec.extractLsb'_toNat, Nat.shiftRight_eq_div_pow]
  omega

/-- The mask of the `PUSH` row clears `cp` and keeps the rest. -/
theorem and_pushMask_eq_shift (w : Word) : w &&& 0xFFE00000#32 = (w >>> 21) <<< 21 := by
  have hmask : ∀ i < 32, (0xFFE00000#32).getLsbD i = decide (21 ≤ i) := by decide
  apply BitVec.eq_of_getLsbD_eq
  intro i hi
  rw [BitVec.getLsbD_and, BitVec.getLsbD_shiftLeft, BitVec.getLsbD_ushiftRight, hmask i hi]
  by_cases h : 21 ≤ i
  · simp [h, hi]
  · simp [h]

/-- The words that select the row of `PUSH` are one range. -/
theorem and_pushMask_iff (w : Word) :
    w &&& 0xFFE00000 = 0x20000000 ↔ (0x20000000 ≤ w.toNat ∧ w.toNat ≤ 0x201FFFFF) := by
  have hrow : (w &&& 0xFFE00000#32).toNat = w.toNat / 2 ^ 21 * 2 ^ 21 := by
    rw [and_pushMask_eq_shift, BitVec.toNat_shiftLeft, BitVec.toNat_ushiftRight, Nat.shiftRight_eq_div_pow,
      Nat.shiftLeft_eq]
    omega
  calc w &&& 0xFFE00000 = 0x20000000 ↔ (w &&& 0xFFE00000#32).toNat = 0x20000000 := BitVec.toNat_inj.symm
    _ ↔ (0x20000000 ≤ w.toNat ∧ w.toNat ≤ 0x201FFFFF) := by rw [hrow]; omega

/-! ## The decoder, one row at a time (R53) -/

theorem decode_init_iff (w : Word) : decode w = .instr .init ↔ w = 0x10000000 := by
  rcases decode_cases w with ⟨h, hd⟩ | ⟨h, -, hd⟩ | ⟨h, hd⟩ | ⟨h, -, -, hd⟩
  · exact iff_of_true hd h
  · exact iff_of_false (by simp [hd]) h
  · exact iff_of_false (by simp [hd]) (h ▸ by decide)
  · exact iff_of_false (by simp [hd]) h

theorem decode_push_iff (w : Word) (cp : CodePoint) :
    decode w = .instr (.push cp) ↔ (w &&& 0xFFE00000 = 0x20000000 ∧ cp = cpField w) := by
  rcases decode_cases w with ⟨h, hd⟩ | ⟨-, h, hd⟩ | ⟨h, hd⟩ | ⟨-, h, -, hd⟩
  · exact iff_of_false (by simp [hd]) fun hrow => absurd hrow.1 (h ▸ by decide)
  · rw [hd, Decoded.instr.injEq, Instr.push.injEq, and_iff_right h, eq_comm]
  · exact iff_of_false (by simp [hd]) fun hrow => absurd hrow.1 (h ▸ by decide)
  · exact iff_of_false (by simp [hd]) fun hrow => h hrow.1

theorem decode_final_iff (w : Word) : decode w = .instr .final ↔ w = 0x30000000 := by
  rcases decode_cases w with ⟨h, hd⟩ | ⟨-, h, hd⟩ | ⟨h, hd⟩ | ⟨-, -, h, hd⟩
  · exact iff_of_false (by simp [hd]) (h ▸ by decide)
  · exact iff_of_false (by simp [hd]) fun hw => absurd h (hw ▸ by decide)
  · exact iff_of_true hd h
  · exact iff_of_false (by simp [hd]) h

/-- The legal words, row by row. -/
theorem legal_iff_range (w : Word) : (∃ i, decode w = .instr i) ↔
    (w = 0x10000000 ∨ w = 0x30000000 ∨ (0x20000000 ≤ w.toNat ∧ w.toNat ≤ 0x201FFFFF)) := by
  rw [← and_pushMask_iff]
  constructor
  · rintro ⟨i, hi⟩
    cases i with
    | init => exact .inl ((decode_init_iff w).mp hi)
    | push cp => exact .inr (.inr ((decode_push_iff w cp).mp hi).1)
    | final => exact .inr (.inl ((decode_final_iff w).mp hi))
  · rintro (h | h | h)
    · exact ⟨.init, (decode_init_iff w).mpr h⟩
    · exact ⟨.final, (decode_final_iff w).mpr h⟩
    · exact ⟨.push (cpField w), (decode_push_iff w _).mpr ⟨h, rfl⟩⟩

/-- Every word is either legal or illegal (R54). -/
theorem illegal_iff_not_legal (w : Word) : (∃ why, decode w = .illegal why) ↔ ¬ ∃ i, decode w = .instr i := by
  cases hd : decode w with
  | instr i => simp
  | illegal why => simp

/-- The illegal words by their fields (R55). -/
theorem illegal_iff_fields (w : Word) : (∃ why, decode w = .illegal why) ↔
    (opField w = 0 ∨ 4 ≤ (opField w).toNat ∨ rsvField w ≠ 0 ∨
      ((opField w = 1 ∨ opField w = 3) ∧ cpField w ≠ 0)) := by
  have hw := toNat_eq_fields w
  have hop := (opField w).isLt
  have hrsv := (rsvField w).isLt
  have hcp := (cpField w).isLt
  rw [illegal_iff_not_legal, legal_iff_range]
  simp only [← BitVec.toNat_inj, BitVec.ofNat_eq_ofNat, BitVec.toNat_ofNat, ne_eq]
  omega

/-! ## Decoding and encoding a legal word -/

/-- The word of a `PUSH` as a number. -/
theorem encode_push_toNat (cp : CodePoint) : (encode (.push cp)).toNat = 0x20000000 + cp.toNat := by
  have hcp : cp.toNat < 2 ^ 29 := by omega
  calc (encode (.push cp)).toNat = 2 ^ 29 ||| cp.toNat := by
        rw [encode, BitVec.toNat_or, BitVec.toNat_setWidth, Nat.mod_eq_of_lt (by omega)]; rfl
    _ = 2 ^ 29 + cp.toNat := (Nat.two_pow_add_eq_or_of_lt hcp 1).symm

/-- A legal word is the encoding of what it decodes to. -/
theorem encode_of_decode {w : Word} {i : Instr} (h : decode w = .instr i) : encode i = w := by
  cases i with
  | init => exact ((decode_init_iff w).mp h).symm
  | push cp =>
    obtain ⟨hrow, rfl⟩ := (decode_push_iff w cp).mp h
    have hrange := (and_pushMask_iff w).mp hrow
    have hw := toNat_eq_fields w
    apply BitVec.eq_of_toNat_eq
    rw [encode_push_toNat]
    omega
  | final => exact ((decode_final_iff w).mp h).symm

/-- The decoder reads every instruction from its encoding. -/
theorem decode_encode (i : Instr) : decode (encode i) = .instr i := by
  cases i with
  | init => exact (decode_init_iff _).mpr rfl
  | push cp => exact Machine.decode_encode_push cp
  | final => exact (decode_final_iff _).mpr rfl

/-! ## How many words are legal -/

/-- The commands as characters with two more values: `INIT` and `FINAL`. -/
def instrEquiv : Option (Option CodePoint) ≃ Instr where
  toFun
    | none => .init
    | some none => .final
    | some (some cp) => .push cp
  invFun
    | .init => none
    | .final => some none
    | .push cp => some (some cp)
  left_inv := by rintro (_ | _ | _) <;> rfl
  right_inv := by rintro (_ | _ | _) <;> rfl

theorem card_instr : Nat.card Instr = 2 + 2 ^ 21 := by
  have hcp : Nat.card CodePoint = 2 ^ 21 := by
    rw [Nat.card_eq_fintype_card, ← FinEnum.card_eq_fintypeCard, FinEnum.card_bitVec]
  rw [← Nat.card_congr instrEquiv, Finite.card_option, Finite.card_option, hcp]
  omega

/-- The word of a command, among the legal words. -/
def legalWordOf (i : Instr) : {w : Word // ∃ i, decode w = .instr i} := ⟨encode i, i, decode_encode i⟩

/-- Each legal word is the encoding of exactly one command. -/
theorem legalWordOf_bijective : Function.Bijective legalWordOf := by
  constructor
  · intro i j h
    have hw : encode i = encode j := congrArg Subtype.val h
    have hd : Decoded.instr i = .instr j := by rw [← decode_encode i, hw, decode_encode j]
    exact Decoded.instr.inj hd
  · rintro ⟨w, i, hi⟩
    exact ⟨i, Subtype.ext (encode_of_decode hi)⟩

theorem card_legal : Nat.card {w : Word // ∃ i, decode w = .instr i} = 2 + 2 ^ 21 := by
  rw [← Nat.card_eq_of_bijective legalWordOf legalWordOf_bijective, card_instr]

end Sys2Proof

namespace Sys2Proof.Machine

open Host

/-! ## An illegal word, and a character at or above 128 (R55, R56) -/

/-- An illegal word in each phase (60_exceptions.md R132). -/
theorem illegalCommand_eq (w : Word) (s : State) : illegalCommand w s =
    .next (s.withEngine (if s.engine.phase = .fault then s.engine else s.engine.enterFault .illegalCommand w)) := by
  obtain ⟨e, he⟩ := illegalCommand_next w s
  rcases illegalCommand_cases he with ⟨hp, ht⟩ | ⟨hp, ht⟩
  · rw [he, ht, if_neg hp]
  · rw [he, ht, if_pos hp, State.withEngine_self]

/-- A character at or above 128 in phase `ABSORB` (60_exceptions.md R131). -/
theorem exec_push_notAscii {cp : CodePoint} {s : State} (hc : 128 ≤ cp.toNat) (hp : s.engine.phase = .absorb) :
    exec (.push cp) s = .next (s.withEngine (s.engine.enterFault .encodingError (encode (.push cp)))) := by
  rw [exec, execPush, sequenced_absorb hp]
  rcases takeCharacter_cases s.engine cp (encode (.push cp)) with ⟨hlt, -⟩ | ⟨-, ht⟩
  · omega
  · rw [ht]

end Sys2Proof.Machine

namespace Sys2Proof.Proofs

open Host Sys2Proof Sys2Proof.Machine

/-- Settles O4: each row from the answers of the decoder, the reserved opcodes from the fields, the count by the encoding. -/
theorem opcodeMapComplete : Obligations.OpcodeMapComplete := by
  have hall : ∀ w : Word, w &&& 0xFFFFFFFF = w := fun _ => BitVec.and_allOnes
  refine ⟨fun w => ?_, decode_push_iff, fun w => ?_, fun w hop => ?_, legal_iff_range, card_legal⟩
  · rw [hall, decode_init_iff]
  · rw [hall, decode_final_iff]
  · exact (illegal_iff_fields w).mpr (hop.imp_right .inl)

/-- Settles O5: the illegal words from the ranges of the legal ones; the effect and the totality from the sequencer's. -/
theorem illegalWordsByField : Obligations.IllegalWordsByField := by
  refine ⟨illegal_iff_fields, ⟨.reservedOpcode, by decide⟩, ⟨.reservedOpcode, by decide⟩,
    fun w why s hd => perform_commandWrite_of_command ?_, fun w s => ?_⟩
  · rw [command, hd]
    exact illegalCommand_eq w s
  · obtain ⟨e, he⟩ := command_next w s
    exact ⟨_, perform_commandWrite_of_command he⟩

/-- Settles O6: the word lies in the range of the `PUSH` row, is the encoding of its character, and the character is at least 128. -/
theorem nonAsciiPushIsLegalAndFaults : Obligations.NonAsciiPushIsLegalAndFaults := by
  intro w hlow hhigh
  have hrow : w &&& 0xFFE00000 = 0x20000000 := (and_pushMask_iff w).mpr ⟨by omega, hhigh⟩
  have hd : decode w = .instr (.push (cpField w)) := (decode_push_iff w _).mpr ⟨hrow, rfl⟩
  have hc : 128 ≤ (cpField w).toNat := by
    have hw := toNat_eq_fields w
    omega
  refine ⟨hd, fun s hp => ?_⟩
  have hexec : exec (.push (cpField w)) s = .next (s.withEngine (s.engine.enterFault .encodingError w)) := by
    rw [exec_push_notAscii hc hp, encode_of_decode hd]
  have hcommand : command w s = .next (s.withEngine (s.engine.enterFault .encodingError w)) := by
    rw [command, hd]
    exact hexec
  exact ⟨hexec, perform_commandWrite_of_command hcommand⟩

end Sys2Proof.Proofs
end

section
/-! PROOFS. The three commands and the sequence `DERIVE` (40_commands.md R62, R64 to R71): what each command does to the registers, runs of
command writes, the register level against the function `MD5` (41_md5_engine.md R96, R97); then the five statements of the family. -/

namespace Sys2Proof.Machine

open Host

/-! ## What a command does to the registers (40_commands.md R64) -/

/-- The registers after the phase check of a legal command other than `INIT`. -/
def Engine.checked (w : Word) (effect : Engine → Engine) (e : Engine) : Engine :=
  match e.phase with
  | .fault => e
  | .done => e.enterFault .sequenceError w
  | .absorb => effect e

/-- The registers after a command: a function of the registers before it alone. -/
def Engine.afterCommand (e : Engine) : Instr → Engine
  | .init => Engine.reset
  | .push cp => e.checked (encode (.push cp)) fun e => e.takeCharacter cp (encode (.push cp))
  | .final => e.checked (encode .final) Engine.finish

theorem sequenced_eq (w : Word) (f : Engine → Engine) (s : State) :
    sequenced w f s = .next (s.withEngine (s.engine.checked w f)) := by
  cases hp : s.engine.phase with
  | absorb => rw [sequenced_absorb hp, Engine.checked, hp]
  | done => rw [sequenced_done hp, Engine.checked, hp]
  | fault => rw [sequenced_fault hp, Engine.checked, hp, State.withEngine_self]

theorem exec_eq (i : Instr) (s : State) : exec i s = .next (s.withEngine (s.engine.afterCommand i)) := by
  cases i with
  | init => exact exec_init s
  | push cp => exact sequenced_eq (encode (.push cp)) (fun e => e.takeCharacter cp (encode (.push cp))) s
  | final => exact sequenced_eq (encode .final) Engine.finish s

/-- Only `INIT` leaves phase `FAULT` (60_exceptions.md R139). -/
theorem Engine.afterCommand_fault {e : Engine} {i : Instr} (hp : e.phase = .fault) (hi : i ≠ .init) :
    e.afterCommand i = e := by
  cases i with
  | init => exact absurd rfl hi
  | push cp => simp only [Engine.afterCommand, Engine.checked, hp]
  | final => simp only [Engine.afterCommand, Engine.checked, hp]

theorem Engine.afterCommand_push_ascii {e : Engine} {cp : CodePoint} (hp : e.phase = .absorb) (hc : cp.toNat < 128) :
    e.afterCommand (.push cp) = e.absorb (codePointByte cp) := by
  simp only [Engine.afterCommand, Engine.checked, hp]
  rcases takeCharacter_cases e cp (encode (.push cp)) with ⟨-, ht⟩ | ⟨hn, -⟩
  · exact ht
  · omega

theorem Engine.afterCommand_push_notAscii {e : Engine} {cp : CodePoint} (hp : e.phase = .absorb) (hc : 128 ≤ cp.toNat) :
    e.afterCommand (.push cp) = e.enterFault .encodingError (encode (.push cp)) := by
  simp only [Engine.afterCommand, Engine.checked, hp]
  rcases takeCharacter_cases e cp (encode (.push cp)) with ⟨hn, -⟩ | ⟨-, ht⟩
  · omega
  · exact ht

theorem Engine.afterCommand_final {e : Engine} (hp : e.phase = .absorb) : e.afterCommand .final = e.finish := by
  simp only [Engine.afterCommand, Engine.checked, hp]

/-! ## Runs of command writes (70_reset_and_hazards.md R162) -/

/-- The write of a command, whole. -/
theorem perform_commandStep (i : Instr) (s : State) :
    perform (commandStep i) s = .next ((s.withEngine (s.engine.afterCommand i)).respond .written) := by
  apply perform_commandWrite_of_command
  rw [command, decode_encode]
  exact exec_eq i s

/-- A run of command writes: the engine takes the commands in order, the bus answers each of them with OK. -/
theorem runSteps_commands (is : List Instr) (s : State) :
    runSteps (is.map commandStep) s =
      .next { s with
        engine := is.foldl Engine.afterCommand s.engine
        observed := List.replicate is.length .written ++ s.observed } := by
  induction is generalizing s with
  | nil => rfl
  | cons i is ih =>
    rw [List.map_cons, runSteps, perform_commandStep, andThen_next, ih]
    simp only [State.respond_engine, State.withEngine_engine, State.respond_observed, State.withEngine_observed,
      List.length_cons, List.replicate_succ', List.append_assoc, List.singleton_append, List.foldl_cons]
    rfl

/-- The commands of `DERIVE "s"` (30_encoding.md R59). -/
def deriveCommands (s : List CodePoint) : List Instr := .init :: s.map .push ++ [.final]

/-- The registers at the end of `DERIVE "s"`, from `s` alone. -/
def derivedEngine (s : List CodePoint) : Engine :=
  ((s.map Instr.push).foldl Engine.afterCommand Engine.reset).afterCommand .final

theorem deriveSteps_eq (s : List CodePoint) : deriveSteps s = (deriveCommands s).map commandStep := by
  simp [deriveSteps, deriveCommands]

/-- Whatever the registers were, `INIT` makes them those of reset (R65, R71). -/
theorem foldl_deriveCommands (s : List CodePoint) (e : Engine) :
    (deriveCommands s).foldl Engine.afterCommand e = derivedEngine s := by
  simp [deriveCommands, derivedEngine, Engine.afterCommand]

theorem runSteps_deriveSteps (s : List CodePoint) (st : State) :
    runSteps (deriveSteps s) st =
      .next { st with
        engine := derivedEngine s
        observed := List.replicate (s.length + 2) .written ++ st.observed } := by
  rw [deriveSteps_eq, runSteps_commands, foldl_deriveCommands]
  simp [deriveCommands]

/-! ## The characters of a message (R62, R66) -/

theorem isAscii_iff (cp : CodePoint) : isAscii cp = true ↔ cp.toNat < 128 := by
  rw [isAscii, decide_eq_true_iff, Config.asciiLimit]

theorem codePointByte_eq_ofNat (cp : CodePoint) : codePointByte cp = BitVec.ofNat 8 cp.toNat := rfl

theorem asciiEncode_of_ascii {s : List CodePoint} (h : ∀ c ∈ s, c.toNat < 128) :
    asciiEncode s = .ok (s.map codePointByte) := by
  have hall : s.all isAscii = true := List.all_eq_true.mpr fun c hc => (isAscii_iff c).mpr (h c hc)
  rw [asciiEncode, if_pos hall]

theorem asciiEncode_of_notAscii {s : List CodePoint} {c : CodePoint} (hc : c ∈ s) (h : 128 ≤ c.toNat) :
    asciiEncode s = .error .encodingError := by
  have hall : ¬ s.all isAscii = true := fun hall => by
    have := (isAscii_iff c).mp (List.all_eq_true.mp hall c hc)
    omega
  rw [asciiEncode, if_neg hall]

/-- A sequence is ASCII, or has a first character that is not. -/
theorem ascii_or_first_notAscii (s : List CodePoint) :
    (∀ c ∈ s, c.toNat < 128) ∨
    ∃ front c back, s = front ++ c :: back ∧ 128 ≤ c.toNat ∧ ∀ c' ∈ front, c'.toNat < 128 := by
  cases hf : s.find? fun c => decide (128 ≤ c.toNat) with
  | none => exact .inl (by simpa using hf)
  | some c =>
    obtain ⟨hc, front, back, rfl, hfront⟩ := List.find?_eq_some_iff_append.mp hf
    exact .inr ⟨front, c, back, rfl, by simpa using hc, by simpa using hfront⟩

/-- ASCII characters pushed in phase `ABSORB` are absorbed as their bytes. -/
theorem foldl_push_ascii {s : List CodePoint} {e : Engine} (h : ∀ c ∈ s, c.toNat < 128) (hp : e.phase = .absorb) :
    (s.map Instr.push).foldl Engine.afterCommand e = (s.map codePointByte).foldl Engine.absorb e := by
  induction s generalizing e with
  | nil => rfl
  | cons c s ih =>
    obtain ⟨hc, hs⟩ := List.forall_mem_cons.mp h
    simp only [List.map_cons, List.foldl_cons, Engine.afterCommand_push_ascii hp hc]
    exact ih hs (by rw [Engine.absorb_phase, hp])

/-- In phase `FAULT` every character is ignored. -/
theorem foldl_push_fault {s : List CodePoint} {e : Engine} (hp : e.phase = .fault) :
    (s.map Instr.push).foldl Engine.afterCommand e = e := by
  induction s with
  | nil => rfl
  | cons c s ih =>
    rw [List.map_cons, List.foldl_cons, Engine.afterCommand_fault hp (by simp), ih]

/-! ## The registers a message of bytes leaves -/

@[simp] theorem foldl_absorb_phase (m : List Byte) (e : Engine) : (m.foldl Engine.absorb e).phase = e.phase := by
  induction m generalizing e with
  | nil => rfl
  | cons b m ih => rw [List.foldl_cons, ih, Engine.absorb_phase]

@[simp] theorem foldl_absorb_cause (m : List Byte) (e : Engine) : (m.foldl Engine.absorb e).cause = e.cause := by
  induction m generalizing e with
  | nil => rfl
  | cons b m ih => rw [List.foldl_cons, ih, Engine.absorb_cause]

/-! ## The end of `DERIVE` (R70) -/

/-- (a): every character is accepted, and `FINAL` ends the message. -/
theorem derivedEngine_ascii {s : List CodePoint} (h : ∀ c ∈ s, c.toNat < 128) :
    derivedEngine s = (absorbAll (s.map codePointByte)).finish := by
  rw [derivedEngine, foldl_push_ascii h Engine.reset_phase, ← absorbAll]
  exact Engine.afterCommand_final (foldl_absorb_phase _ _)

/-- (b): the first character that is not ASCII faults, and what follows it is ignored. -/
theorem derivedEngine_notAscii {front back : List CodePoint} {c : CodePoint} (hf : ∀ c' ∈ front, c'.toNat < 128)
    (hc : 128 ≤ c.toNat) :
    derivedEngine (front ++ c :: back) =
      (absorbAll (front.map codePointByte)).enterFault .encodingError (encode (.push c)) := by
  have hp : (absorbAll (front.map codePointByte)).phase = .absorb := foldl_absorb_phase _ _
  rw [derivedEngine, List.map_append, List.foldl_append, foldl_push_ascii hf Engine.reset_phase, ← absorbAll,
    List.map_cons, List.foldl_cons, Engine.afterCommand_push_notAscii hp hc, foldl_push_fault rfl]
  exact Engine.afterCommand_fault rfl (by simp)

/-! ## Blocks of a byte list (41_md5_engine.md R95) -/

theorem blockOf_getElem (p : List Byte) (j : Nat) (h : j < 64) : (blockOf p)[j] = p.getD j 0 := by
  simp [blockOf]

theorem blockOf_append {p q : List Byte} (h : 64 ≤ p.length) : blockOf (p ++ q) = blockOf p := by
  refine Vector.ext fun j hj => ?_
  rw [blockOf_getElem, blockOf_getElem, List.getD_append _ _ _ _ (by omega)]

/-- Blocks past the whole ones of `p` do not matter to them. -/
theorem compressBlocks_append {n : Nat} {p : List Byte} (q : List Byte) (h : Chain) (hn : 64 * n ≤ p.length) :
    compressBlocks n h (p ++ q) = compressBlocks n h p := by
  induction n generalizing h p with
  | zero => rfl
  | succ n ih =>
    rw [compressBlocks, compressBlocks, blockOf_append (by omega), List.drop_append_of_le_length (by omega),
      ih _ (by rw [List.length_drop]; omega)]

theorem compressBlocks_add (n k : Nat) (h : Chain) (p : List Byte) :
    compressBlocks (n + k) h p = compressBlocks k (compressBlocks n h p) (p.drop (64 * n)) := by
  induction n generalizing h p with
  | zero => simp [compressBlocks]
  | succ n ih =>
    have hlen : 64 + 64 * n = 64 * (n + 1) := by omega
    rw [Nat.add_right_comm, compressBlocks, ih, compressBlocks, List.drop_drop, hlen]

/-- One block more. -/
theorem compressBlocks_succ (n : Nat) (h : Chain) (p : List Byte) :
    compressBlocks (n + 1) h p = compressF (compressBlocks n h p) (blockOf (p.drop (64 * n))) :=
  compressBlocks_add n 1 h p

/-! ## The register level while a message is absorbed (R96) -/

/-- The registers hold the message `m` absorbed so far: its length, its whole blocks compressed, the rest of it in the buffer. -/
structure Engine.Holds (e : Engine) (m : List Byte) : Prop where
  count : e.count = BitVec.ofNat 64 m.length
  chain : e.chain = compressBlocks (m.length / 64) iv m
  buf : ∀ (j : Nat) (_ : j < 64), j < m.length % 64 → e.buf[j] = m.getD (64 * (m.length / 64) + j) 0

/-- The fill index is right for every length: 64 divides 2^64 (R97). -/
theorem Engine.Holds.fillIndex {e : Engine} {m : List Byte} (h : e.Holds m) : e.fillIndex = m.length % 64 := by
  rw [Engine.fillIndex, h.count, BitVec.toNat_ofNat]
  omega

/-- The length that padding appends is right for every length (R97). -/
theorem Engine.Holds.bitCount {e : Engine} {m : List Byte} (h : e.Holds m) : e.bitCount = bitLength m.length := by
  rw [Engine.bitCount, h.count, bitLength, Nat.mul_comm, BitVec.ofNat_mul]
  rfl

theorem holds_reset : Engine.reset.Holds [] :=
  ⟨rfl, rfl, fun j _ hj => absurd hj (Nat.not_lt_zero j)⟩

/-- The buffer once the next byte is stored: the message longer by that byte, from its last whole block on. -/
theorem Engine.Holds.store_buf {e : Engine} {m : List Byte} (h : e.Holds m) (b : Byte) {j : Nat} (hj : j < 64)
    (hle : j ≤ m.length % 64) :
    (e.store b).buf[j] = (m ++ [b]).getD (64 * (m.length / 64) + j) 0 := by
  have hfill := h.fillIndex
  rw [Engine.store_buf, Vector.getElem_set]
  by_cases hlast : j = m.length % 64
  · have hpos : 64 * (m.length / 64) + j = m.length := by omega
    rw [if_pos (by omega), hpos, List.getD_append_right _ _ _ _ le_rfl, Nat.sub_self]
    rfl
  · rw [if_neg (by omega), h.buf j hj (by omega), List.getD_append _ _ _ _ (by omega)]

/-- Absorbing a byte keeps it, and compresses the block that the byte fills (40_commands.md R68). -/
theorem Engine.Holds.absorb {e : Engine} {m : List Byte} (h : e.Holds m) (b : Byte) :
    (e.absorb b).Holds (m ++ [b]) := by
  have hfill := h.fillIndex
  have hlen : (m ++ [b]).length = m.length + 1 := by simp
  have hcount : (e.absorb b).count = BitVec.ofNat 64 (m ++ [b]).length := by
    rw [Engine.absorb_count, h.count, hlen, BitVec.ofNat_add]
    rfl
  have hchain : compressBlocks (m.length / 64) iv (m ++ [b]) = e.chain := by
    rw [compressBlocks_append _ _ (by omega), h.chain]
  by_cases hfull : m.length % 64 = 63
  · have hdiv : (m ++ [b]).length / 64 = m.length / 64 + 1 := by omega
    have hblock : blockOf ((m ++ [b]).drop (64 * (m.length / 64))) = (e.store b).buf := by
      refine Vector.ext fun j hj => ?_
      rw [h.store_buf b hj (by omega), blockOf_getElem]
      simp
    refine ⟨hcount, ?_, fun j _ hj => by omega⟩
    rw [hdiv, compressBlocks_succ, hchain, hblock, Engine.absorb_chain, if_pos (by omega), Engine.store_buf]
  · have hdiv : (m ++ [b]).length / 64 = m.length / 64 := by omega
    refine ⟨hcount, ?_, fun j hj hlt => ?_⟩
    · rw [hdiv, hchain, Engine.absorb_chain, if_neg (by omega)]
    · rw [hdiv, ← h.store_buf b hj (by omega), Engine.absorb_buf, Engine.store_buf]

/-- After `INIT` or reset the registers hold what has been absorbed since. -/
theorem holds_absorbAll (m : List Byte) : (absorbAll m).Holds m := by
  induction m using List.reverseRecOn with
  | nil => exact holds_reset
  | append_singleton m b ih =>
    rw [absorbAll, foldl_absorb_append]
    exact ih.absorb b

/-! ## The padding in place (R82, R92, R96) -/

theorem pad_length (m : List Byte) : (pad m).length = m.length + padZeros m.length + 9 := by
  simp only [pad, List.length_append, List.length_singleton, List.length_replicate, Vector.length_toList]
  omega

/-- Where the eight length bytes begin: at byte 56 of the last block. -/
theorem pad_length_eq (m : List Byte) :
    (pad m).length = 64 * (m.length / 64) + (if m.length % 64 < 56 then 64 else 128) := by
  rw [pad_length, padZeros]
  split <;> omega

/-- The padded message byte by byte. -/
theorem pad_getD (m : List Byte) (i : Nat) :
    (pad m).getD i 0 =
      if i < m.length then m.getD i 0 else if i = m.length then 0x80
      else if i + 8 < (pad m).length then 0x00
      else (le64 (bitLength m.length)).toList.getD (i + 8 - (pad m).length) 0 := by
  have hlen := pad_length m
  rw [show pad m = m ++ ([0x80] ++ (List.replicate (padZeros m.length) 0x00 ++ (le64 (bitLength m.length)).toList)) by
    simp [pad]] at hlen ⊢
  by_cases hm : i < m.length
  · rw [if_pos hm, List.getD_append _ _ _ _ hm]
  rw [if_neg hm, List.getD_append_right _ _ _ _ (by omega)]
  by_cases hi : i = m.length
  · rw [if_pos hi, hi, Nat.sub_self]
    rfl
  rw [if_neg hi, List.getD_append_right _ _ _ _ (by rw [List.length_singleton]; omega), List.length_singleton, hlen]
  by_cases hz : i - m.length - 1 < padZeros m.length
  · rw [if_pos (by omega), List.getD_append _ _ _ _ (by simpa using hz), List.getD_replicate _ hz]
  · rw [if_neg (by omega), List.getD_append_right _ _ _ _ (by simpa using hz), List.length_replicate]
    congr 1
    omega

theorem blockOf_drop_getElem (p : List Byte) (k j : Nat) (h : j < 64) : (blockOf (p.drop k))[j] = p.getD (k + j) 0 := by
  rw [blockOf_getElem _ _ h]
  simp

/-- The buffer with the marker and the zeros is the padded message from the last whole block of the message on, as far as it goes without
the length (R92). -/
theorem Engine.Holds.padTail_getElem {e : Engine} {m : List Byte} (h : e.Holds m) {j : Nat} (hj : j < 64)
    (hroom : m.length % 64 < 56 → j < 56) :
    (padTail e.fillIndex e.buf)[j] = (pad m).getD (64 * (m.length / 64) + j) 0 := by
  rw [Machine.padTail_getElem _ _ _ hj, h.fillIndex, pad_getD, pad_length_eq]
  by_cases hlt : j < m.length % 64
  · rw [if_pos hlt, if_pos (by omega), h.buf j hj hlt]
  by_cases heq : j = m.length % 64
  · rw [if_neg hlt, if_pos heq, if_neg (by omega), if_pos (by omega)]
  · have hzero : 64 * (m.length / 64) + j + 8 < 64 * (m.length / 64) + (if m.length % 64 < 56 then 64 else 128) := by
      split <;> omega
    rw [if_neg hlt, if_neg heq, if_neg (by omega), if_neg (by omega), if_pos hzero]

/-- The last block of the padded message ends with the length (R92). -/
theorem putLength_eq_last_block {m : List Byte} {p : Block} {k : Nat} (hk : (pad m).length = k + 64)
    (hp : ∀ (j : Nat) (_ : j < 56), p[j] = (pad m).getD (k + j) 0) :
    putLength (bitLength m.length) p = blockOf ((pad m).drop k) := by
  have hlen := pad_length m
  refine Vector.ext fun j hj => ?_
  rw [blockOf_drop_getElem _ _ _ hj]
  by_cases hlow : j < 56
  · rw [putLength_low _ _ _ hlow, hp j hlow]
  · obtain ⟨i, rfl⟩ : ∃ i, j = 56 + i := ⟨j - 56, by omega⟩
    have hi : k + (56 + i) + 8 - (pad m).length = i := by omega
    rw [putLength_high _ _ _ (by omega), pad_getD, if_neg (by omega), if_neg (by omega), if_neg (by omega), hi,
      List.getD_eq_getElem _ _ (by rw [Vector.length_toList]; omega), Vector.getElem_toList]

/-- `PadFinal` compresses the remaining one or two blocks of the padded message. -/
theorem Engine.Holds.padFinal_chain {e : Engine} {m : List Byte} (h : e.Holds m) :
    e.padFinal.chain = compressBlocks ((pad m).length / 64) iv (pad m) := by
  have hfill := h.fillIndex
  have hlen := pad_length_eq m
  have hwhole : compressBlocks (m.length / 64) iv (pad m) = e.chain := by
    rw [h.chain, pad, List.append_assoc, List.append_assoc, compressBlocks_append _ _ (by omega)]
  rw [Engine.padFinal_chain, h.bitCount]
  by_cases hroom : m.length % 64 < 56
  · rw [if_pos hroom] at hlen
    obtain ⟨hchain, hbuf⟩ := e.padMarker_of_lt (by omega)
    have hlast : putLength (bitLength m.length) e.padMarker.buf = blockOf ((pad m).drop (64 * (m.length / 64))) :=
      putLength_eq_last_block (by omega) fun j hj => by
        simp only [hbuf]
        exact h.padTail_getElem (by omega) fun _ => hj
    rw [show (pad m).length / 64 = m.length / 64 + 1 by omega, compressBlocks_succ, hwhole, hchain, hlast]
  · rw [if_neg hroom] at hlen
    obtain ⟨hchain, hbuf⟩ := e.padMarker_of_ge (by omega)
    have hmarker : padTail e.fillIndex e.buf = blockOf ((pad m).drop (64 * (m.length / 64))) := by
      refine Vector.ext fun j hj => ?_
      rw [blockOf_drop_getElem _ _ _ hj, h.padTail_getElem hj (by omega)]
    have hlast : putLength (bitLength m.length) e.padMarker.buf = blockOf ((pad m).drop (64 * (m.length / 64 + 1))) :=
      putLength_eq_last_block (by omega) fun j hj => by
        rw [pad_getD, if_neg (by omega), if_neg (by omega), if_pos (by omega)]
        simp [hbuf]
    rw [show (pad m).length / 64 = m.length / 64 + 1 + 1 by omega, compressBlocks_succ, compressBlocks_succ, hwhole,
      hchain, hmarker, hlast]

/-- The register level computes the function `MD5` (R95, R96). -/
theorem Engine.Holds.finish_digest {e : Engine} {m : List Byte} (h : e.Holds m) : e.finish.digest = md5 m := by
  rw [Engine.finish_digest, h.padFinal_chain, md5]

/-! ## The frame of an accepted `PUSH` (40_commands.md R68) -/

/-- Of the window's registers, absorbing a byte changes `COUNT` alone. -/
theorem readRegister_absorb {r : WindowReg} (hlo : r ≠ .countLo) (hhi : r ≠ .countHi) (e : Engine) (b : Byte) :
    readRegister (e.absorb b) r = readRegister e r := by
  cases r with
  | cmd => rfl
  | status => exact Engine.status_congr (e.absorb_phase b) (e.absorb_cause b)
  | faultInfo => exact e.absorb_faultInfo b
  | countLo => exact absurd rfl hlo
  | countHi => exact absurd rfl hhi
  | digest q => simp only [readRegister, Engine.absorb_digest]
  | rdigest q => simp only [readRegister, Engine.absorb_rdigest]
  | key q => simp only [readRegister, Engine.absorb_key]

end Sys2Proof.Machine

namespace Sys2Proof.Proofs

open Host Sys2Proof Sys2Proof.Machine

/-- Settles O53: either every character is absorbed and `FINAL` completes the digest of the message, or the first character at or above 128
faults and the rest is ignored. -/
theorem commandsComputeDerive : Obligations.CommandsComputeDerive := by
  intro s st hlen
  refine ⟨_, runSteps_deriveSteps s st, rfl, rfl, ?_⟩
  rcases ascii_or_first_notAscii s with hs | ⟨front, c, back, rfl, hc, hfront⟩
  · have hholds := holds_absorbAll (s.map codePointByte)
    have henc := asciiEncode_of_ascii hs
    have hcount : (BitVec.ofNat 64 (s.map codePointByte).length).toNat = s.length := by
      rw [List.length_map, BitVec.toNat_ofNat]
      omega
    have hcause : (absorbAll (s.map codePointByte)).cause = .none := foldl_absorb_cause _ _
    simp only [derive, henc, derivedEngine_ascii hs]
    refine ⟨_, rfl, Engine.finish_phase _, Engine.status_of_done (Engine.finish_phase _) ?_, ?_, ?_,
      hholds.finish_digest, ?_⟩
    · rw [Engine.finish_cause, hcause]
    · rw [Engine.finish_key, ← Engine.finish_digest, hholds.finish_digest, keyOf]
    · rw [Engine.finish_rdigest, ← Engine.finish_digest, hholds.finish_digest]
    · rw [Engine.finish_count, hholds.count, hcount]
  · have henc := asciiEncode_of_notAscii (s := front ++ c :: back) (by simp) hc
    have hcount : (BitVec.ofNat 64 (front.map codePointByte).length).toNat = front.length := by
      rw [List.length_append] at hlen
      rw [List.length_map, BitVec.toNat_ofNat]
      omega
    simp only [derive, henc, derivedEngine_notAscii hfront hc]
    refine ⟨front.length, c, by simp, hc, fun i c' hi hget => ?_, rfl, ?_, ?_, rfl, rfl, rfl, rfl⟩
    · rw [List.getElem?_append_left hi] at hget
      exact hfront c' (List.mem_of_getElem? hget)
    · rw [Engine.status_of_fault rfl, Engine.enterFault_cause]
      rfl
    · rw [Engine.enterFault_count, (holds_absorbAll _).count, hcount]

/-- Settles O10: the command absorbs the byte of the character, and each register is one of the rules for `absorb`. -/
theorem pushAbsorbsCharacter : Obligations.PushAbsorbsCharacter := by
  intro cp s hc hp
  refine ⟨s.withEngine (s.engine.absorb (codePointByte cp)), ?_, fun j => ?_, ?_, ?_, by simp, by simp, by simp, by simp,
    by simp, by simp, fun r hlo hhi => readRegister_absorb hlo hhi _ _, rfl, rfl⟩
  · rw [exec_eq, Engine.afterCommand_push_ascii hp hc]
  · simp only [State.withEngine_engine, Engine.absorb_buf, Vector.getElem_set, codePointByte_eq_ofNat, Engine.fillIndex,
      eq_comm]
  · simp [BitVec.toNat_add]
  · rw [State.withEngine_engine, Engine.absorb_buf]
    exact Engine.absorb_chain _ _

/-- Settles O52: the bytes of the characters, and the one failure. -/
theorem asciiEncodeAllOrNothing : Obligations.AsciiEncodeAllOrNothing := by
  refine ⟨fun s hs => ⟨_, asciiEncode_of_ascii hs, ?_⟩, fun s ⟨c, hmem, hc⟩ => asciiEncode_of_notAscii hmem hc, rfl,
    by decide, by decide⟩
  rw [List.map_map]
  exact List.map_congr_left fun c hc => codePointByte_toNat (hs c hc)

/-- Settles O54: `INIT` sets every register, so the registers at the end are those of `derivedEngine`. -/
theorem deriveForgetsThePast : Obligations.DeriveForgetsThePast :=
  fun s => ⟨derivedEngine s, fun st => ⟨_, runSteps_deriveSteps s st, rfl⟩⟩

/-- Settles O9: `INIT` leaves the reset registers, and its row of the opcode map is one word. -/
theorem initStartsMessage : Obligations.InitStartsMessage := by
  refine ⟨exec_init, fun s t ht => ?_, fun w hop hrest => ?_⟩
  · obtain rfl : s.withEngine Engine.reset = t := Outcome.next.inj ((exec_init s).symm.trans ht)
    exact ⟨Engine.status_of_absorb Engine.reset_phase Engine.reset_cause, exec_init _⟩
  · rw [illegal_iff_not_legal, legal_iff_range]
    have hopcode := congrArg BitVec.toNat hop
    have hbits : (w.extractLsb' 0 28).toNat ≠ 0 := fun h => hrest (BitVec.eq_of_toNat_eq h)
    simp only [BitVec.extractLsb'_toNat, Nat.shiftRight_eq_div_pow] at hopcode hbits
    simp only [← BitVec.toNat_inj, BitVec.ofNat_eq_ofNat, BitVec.toNat_ofNat] at hopcode ⊢
    omega

end Sys2Proof.Proofs
end

section
/-! PROOFS. The MD5 unit (41_md5_engine.md R82 to R97): the auxiliary functions and the steps, the shape of the padding, what `FINAL` leaves in
the registers, the register level against the function `MD5`; then the six statements of the family. -/

namespace Sys2Proof.Machine

open Host

/-! ## The auxiliary functions (41_md5_engine.md R84) -/

/-- `F` selects `y` where `x` is 1 and `z` where `x` is 0. -/
theorem auxF_getLsbD (x y z : Word) {k : Nat} (hk : k < 32) :
    (auxF x y z).getLsbD k = if x.getLsbD k then y.getLsbD k else z.getLsbD k := by
  rw [auxF, BitVec.getLsbD_or, BitVec.getLsbD_and, BitVec.getLsbD_and, BitVec.getLsbD_not]
  cases x.getLsbD k <;> simp [hk]

/-- `G` selects `x` where `z` is 1 and `y` where `z` is 0. -/
theorem auxG_getLsbD (x y z : Word) {k : Nat} (hk : k < 32) :
    (auxG x y z).getLsbD k = if z.getLsbD k then x.getLsbD k else y.getLsbD k := by
  rw [auxG, BitVec.getLsbD_or, BitVec.getLsbD_and, BitVec.getLsbD_and, BitVec.getLsbD_not]
  cases z.getLsbD k <;> simp [hk]

theorem auxH_getLsbD (x y z : Word) (k : Nat) :
    (auxH x y z).getLsbD k = ((x.getLsbD k != y.getLsbD k) != z.getLsbD k) := by
  rw [auxH, BitVec.getLsbD_xor, BitVec.getLsbD_xor]

theorem auxI_getLsbD (x y z : Word) {k : Nat} (hk : k < 32) :
    (auxI x y z).getLsbD k = (y.getLsbD k != (x.getLsbD k || !z.getLsbD k)) := by
  simp [auxI, hk]

/-- `G` is `F` with its selector moved to the front. -/
theorem auxG_eq_auxF (x y z : Word) : auxG x y z = auxF z x y := by
  rw [auxG, auxF, BitVec.and_comm x z, BitVec.and_comm y]

/-! ## The step in each round (R85 to R90) -/

theorem stepFn_round1 {i : Nat} (h : i < 16) : stepFn i = auxF := by
  funext x y z
  rw [stepFn, if_pos h]

theorem stepFn_round2 {i : Nat} (hl : 16 ≤ i) (h : i < 32) : stepFn i = auxG := by
  funext x y z
  rw [stepFn, if_neg (by omega), if_pos h]

theorem stepFn_round3 {i : Nat} (hl : 32 ≤ i) (h : i < 48) : stepFn i = auxH := by
  funext x y z
  rw [stepFn, if_neg (by omega), if_neg (by omega), if_pos h]

theorem stepFn_round4 {i : Nat} (hl : 48 ≤ i) : stepFn i = auxI := by
  funext x y z
  rw [stepFn, if_neg (by omega), if_neg (by omega), if_neg (by omega)]

theorem stepTables_round1 : ∀ i : Fin 16, stepK i.val = i.val ∧ stepS i.val = [7, 12, 17, 22].getD (i.val % 4) 0 := by
  decide

theorem stepTables_round2 : ∀ i : Fin 16, stepK (16 + i.val) = (5 * (16 + i.val) + 1) % 16 ∧
    stepS (16 + i.val) = [5, 9, 14, 20].getD (i.val % 4) 0 := by
  decide

theorem stepTables_round3 : ∀ i : Fin 16, stepK (32 + i.val) = (3 * (32 + i.val) + 5) % 16 ∧
    stepS (32 + i.val) = [4, 11, 16, 23].getD (i.val % 4) 0 := by
  decide

theorem stepTables_round4 : ∀ i : Fin 16, stepK (48 + i.val) = (7 * (48 + i.val)) % 16 ∧
    stepS (48 + i.val) = [6, 10, 15, 21].getD (i.val % 4) 0 := by
  decide

theorem wordAt_eq_getElem (x : Vector Word 16) {k : Nat} (hk : k < 16) : wordAt x k = x[k] := by
  rw [wordAt, List.getD_eq_getElem _ _ (by simpa using hk), Vector.getElem_toList]

/-- The generic step (R86) with its auxiliary function, its word index and its rotate amount known. -/
theorem md5Step_eq {i k s : Nat} {f : Word → Word → Word → Word} (hf : stepFn i = f) (hks : stepK i = k ∧ stepS i = s)
    (hk : k < 16) (x : Vector Word 16) (r : Chain) :
    md5Step x r i = ⟨r.d, r.b + rotl32 (r.a + f r.b r.c r.d + x[k] + stepT i) s, r.b, r.c⟩ := by
  obtain ⟨hindex, hrot⟩ := hks
  rw [md5Step, hf, hindex, hrot, wordAt_eq_getElem x hk]

/-- The `FF` step (R87). -/
theorem md5Step_round1 (x : Vector Word 16) (r : Chain) (i : Fin 16) :
    md5Step x r i.val = ⟨r.d, r.b + rotl32 (r.a + auxF r.b r.c r.d + x[i.val] + stepT i.val)
      ([7, 12, 17, 22].getD (i.val % 4) 0), r.b, r.c⟩ :=
  md5Step_eq (stepFn_round1 i.isLt) (stepTables_round1 i) _ x r

/-- The `GG` step (R88). -/
theorem md5Step_round2 (x : Vector Word 16) (r : Chain) (i : Fin 16) :
    md5Step x r (16 + i.val) = ⟨r.d, r.b + rotl32 (r.a + auxG r.b r.c r.d +
      x[(5 * (16 + i.val) + 1) % 16] + stepT (16 + i.val)) ([5, 9, 14, 20].getD (i.val % 4) 0), r.b, r.c⟩ :=
  md5Step_eq (stepFn_round2 (by omega) (by omega)) (stepTables_round2 i) _ x r

/-- The `HH` step (R89). -/
theorem md5Step_round3 (x : Vector Word 16) (r : Chain) (i : Fin 16) :
    md5Step x r (32 + i.val) = ⟨r.d, r.b + rotl32 (r.a + auxH r.b r.c r.d +
      x[(3 * (32 + i.val) + 5) % 16] + stepT (32 + i.val)) ([4, 11, 16, 23].getD (i.val % 4) 0), r.b, r.c⟩ :=
  md5Step_eq (stepFn_round3 (by omega) (by omega)) (stepTables_round3 i) _ x r

/-- The `II` step (R90). -/
theorem md5Step_round4 (x : Vector Word 16) (r : Chain) (i : Fin 16) :
    md5Step x r (48 + i.val) = ⟨r.d, r.b + rotl32 (r.a + auxI r.b r.c r.d +
      x[(7 * (48 + i.val)) % 16] + stepT (48 + i.val)) ([6, 10, 15, 21].getD (i.val % 4) 0), r.b, r.c⟩ :=
  md5Step_eq (stepFn_round4 (by omega)) (stepTables_round4 i) _ x r

/-! ## The shape of the padding (R82) -/

/-- The zeros of the padding bring the length bytes to byte 56 of a block. -/
theorem padZeros_mod (n : Nat) : (n + 1 + padZeros n) % 64 = 56 := by
  rw [padZeros]
  omega

/-- No fewer zeros do. -/
theorem padZeros_le {n y : Nat} (h : (n + 1 + y) % 64 = 56) : padZeros n ≤ y := by
  rw [padZeros]
  omega

/-- The whole blocks of a message are the first blocks of its padding. -/
theorem compressBlocks_pad (m : List Byte) (h : Chain) :
    compressBlocks (m.length / 64) h (pad m) = compressBlocks (m.length / 64) h m := by
  rw [pad, List.append_assoc, List.append_assoc, compressBlocks_append _ _ (by omega)]

/-! ## Bytes of words and of the digest (00_scope.md R8, 41_md5_engine.md R93) -/

theorem le32_getElem (w : Word) (r : Fin 4) : (le32 w)[r.val] = w.extractLsb' (8 * r.val) 8 := by
  fin_cases r <;> rfl

theorem le64_getElem (w : Count) (k : Fin 8) : (le64 w)[k.val] = w.extractLsb' (8 * k.val) 8 := by
  fin_cases k <;> rfl

/-- Four words laid out least significant byte first. -/
theorem le32_append_getElem (a b c d : Word) (q r : Fin 4) :
    (le32 a ++ le32 b ++ le32 c ++ le32 d)[4 * q.val + r.val] = (#v[a, b, c, d][q.val]).extractLsb' (8 * r.val) 8 := by
  rw [← le32_getElem]
  simp only [Vector.getElem_append]
  fin_cases q
  all_goals
    simp (disch := omega) only [dif_pos, dif_neg]
    simp

/-- Byte `r` of word `q` of the chaining value (R93). -/
theorem digestBytes_getElem (h : Chain) (q r : Fin 4) :
    (digestBytes h)[4 * q.val + r.val] = (#v[h.a, h.b, h.c, h.d][q.val]).extractLsb' (8 * r.val) 8 := by
  rw [digestBytes]
  exact le32_append_getElem h.a h.b h.c h.d q r

/-! ## `FINAL` in phase `ABSORB` (R92, 40_commands.md R67) -/

theorem exec_final_absorb {s : State} (hp : s.engine.phase = .absorb) :
    ∃ t, exec .final s = .next t ∧ t.engine = s.engine.finish ∧ t.pending = s.pending ∧ t.observed = s.observed :=
  ⟨s.withEngine s.engine.finish, by rw [exec_eq, Engine.afterCommand_final hp], State.withEngine_engine _ _,
    State.withEngine_pending _ _, State.withEngine_observed _ _⟩

/-- The length that `PadFinal` appends, as a number (R94 (b)). -/
theorem Engine.bitCount_eq_ofNat (e : Engine) : e.bitCount = BitVec.ofNat 64 (8 * e.count.toNat) := by
  rw [Engine.bitCount, Nat.mul_comm, BitVec.ofNat_mul, BitVec.ofNat_toNat, BitVec.setWidth_eq]
  rfl

/-- The buffer with the length in it, byte by byte (R92). -/
theorem putLength_getElem (len : Count) (p : Block) (j : Nat) (h : j < 64) :
    (putLength len p)[j] = if j < 56 then p[j] else len.extractLsb' (8 * (j - 56)) 8 := by
  by_cases hlow : j < 56
  · rw [if_pos hlow, putLength_low _ _ _ hlow]
  · obtain ⟨k, rfl⟩ : ∃ k, j = 56 + k := ⟨j - 56, by omega⟩
    rw [if_neg hlow, putLength_high _ _ _ (by omega), le64_getElem len ⟨k, by omega⟩, Nat.add_sub_cancel_left]

/-- `BUF` after `FINAL`: what the marker part left, with the length in the last eight bytes. -/
theorem Engine.finish_buf_getElem (e : Engine) (j : Nat) (h : j < 64) :
    e.finish.buf[j] =
      if j < 56 then e.padMarker.buf[j] else (BitVec.ofNat 64 (8 * e.count.toNat)).extractLsb' (8 * (j - 56)) 8 := by
  simp only [Engine.finish_buf, putLength_getElem, Engine.bitCount_eq_ofNat]

/-- The last compression of `FINAL` is the one of the buffer that it leaves. -/
theorem Engine.finish_chain_eq (e : Engine) : e.finish.chain = compressF e.padMarker.chain e.finish.buf := by
  rw [Engine.finish_chain, Engine.padFinal_chain, Engine.finish_buf]

end Sys2Proof.Machine

namespace Sys2Proof.Proofs

open Host Sys2Proof Sys2Proof.Machine

/-- Settles O43: the registers after absorbing hold the message, and `PadFinal` compresses the rest of its padding. -/
theorem registerLevelComputesMd5 : Obligations.RegisterLevelComputesMd5 := by
  intro e m
  have hholds : (m.foldl Engine.absorb e.startMessage).Holds m := by
    rw [Engine.startMessage_eq]
    exact holds_absorbAll m
  refine ⟨?_, hholds.chain, compressBlocks_pad m iv, hholds.padFinal_chain, hholds.count, hholds.bitCount,
    hholds.fillIndex⟩
  rw [Engine.writeDigest_digest, hholds.padFinal_chain, md5]

/-- Settles O12: the digest is the bytes of the chaining value after the padding, and the two units read the register before theirs. -/
theorem finalWritesOutputs : Obligations.FinalWritesOutputs := by
  intro s hp
  obtain ⟨t, ht, hengine, hpending, hobserved⟩ := exec_final_absorb hp
  have hdigest : t.engine.digest = digestBytes t.engine.chain := by
    rw [hengine, Engine.finish_digest, Engine.finish_chain]
  have hrdigest : t.engine.rdigest = reverseBytes t.engine.digest := by
    rw [hengine, Engine.finish_rdigest, Engine.finish_digest]
  have hkey : t.engine.key = hexLower t.engine.rdigest := by
    rw [hengine, Engine.finish_key, Engine.finish_rdigest]
  refine ⟨t, ht, fun q r => ?_, fun i => ?_, fun i => ?_, ?_, ?_, ?_, ?_, hpending, hobserved⟩
  · simp only [hdigest]
    exact digestBytes_getElem _ q r
  · simp only [hrdigest]
    exact reverseBytes_getElem _ i.val i.isLt
  · simp only [hkey]
    exact ⟨hexLower_even _ i.val i.isLt, hexLower_odd _ i.val i.isLt⟩
  · rw [hengine, Engine.finish_phase]
  · rw [hengine, Engine.finish_count]
  · rw [hengine, Engine.finish_cause]
  · rw [hengine, Engine.finish_faultInfo]

/-- Settles O13: the length has room after the marker for a fill index of at most 55, and goes into a block of its own otherwise. -/
theorem finalPadsInPlace : Obligations.FinalPadsInPlace := by
  intro s hp
  obtain ⟨t, ht, hengine, -, -⟩ := exec_final_absorb hp
  refine ⟨t, ht, ?_⟩
  rw [hengine]
  refine ⟨Engine.finish_count _, fun hroom => ?_, fun hfull => ?_⟩
  · obtain ⟨hchain, hbuf⟩ := s.engine.padMarker_of_lt (Nat.lt_succ_of_le hroom)
    refine ⟨by rw [Engine.finish_chain_eq, hchain], fun j => ?_⟩
    simp only [Engine.finish_buf_getElem, hbuf, padTail_getElem, Engine.fillIndex]
    by_cases hlow : j.val < 56
    · simp only [if_pos hlow]
    · rw [if_neg hlow, if_neg hlow, if_neg (by omega), if_neg (by omega)]
  · obtain ⟨hchain, hbuf⟩ := s.engine.padMarker_of_ge hfull
    refine ⟨padTail s.engine.fillIndex s.engine.buf, by rw [Engine.finish_chain_eq, hchain],
      fun j => padTail_getElem _ _ j.val j.isLt, fun j => ?_⟩
    simp only [Engine.finish_buf_getElem, hbuf, Vector.getElem_replicate]

/-- Settles O42: the least number of zeros is the model's, and the length then is one or two blocks past the whole ones. -/
theorem paddingShape : Obligations.PaddingShape := by
  refine ⟨fun m => ?_, by decide⟩
  have hmod := padZeros_mod m.length
  have hlen : (pad m).length = m.length + 1 + padZeros m.length + 8 := by
    rw [pad_length]
    omega
  have hblocks := pad_length_eq m
  refine ⟨padZeros m.length, hmod, fun y => padZeros_le, rfl, hlen, by omega, fun hroom => ?_, fun hfull => ?_⟩
  · rw [if_pos (by omega)] at hblocks
    omega
  · rw [if_neg (by omega)] at hblocks
    omega

/-- Settles O38: each function is bitwise, and the examples are computed. -/
theorem auxiliaryFunctionsBitwise : Obligations.AuxiliaryFunctionsBitwise :=
  ⟨fun x y z k => ⟨auxF_getLsbD x y z k.isLt, auxG_getLsbD x y z k.isLt, auxH_getLsbD x y z k.val,
    auxI_getLsbD x y z k.isLt⟩, auxG_eq_auxF, by decide⟩

/-- Settles O40: the step of each round, and the first step of each at the traced words. -/
theorem stepOfEachRound : Obligations.StepOfEachRound := by
  refine ⟨fun x r i => ⟨md5Step_round1 x r i, md5Step_round2 x r i, md5Step_round3 x r i, md5Step_round4 x r i⟩,
    fun x hx => ?_, fun x hx => ?_, fun x hx => ?_, fun x hx => ?_⟩
  · rw [md5Step_eq (i := 0) (k := 0) (stepFn_round1 (by decide)) (stepTables_round1 0) (by decide), hx]
    decide
  · rw [md5Step_eq (i := 16) (k := 1) (stepFn_round2 (by decide) (by decide)) (stepTables_round2 0) (by decide), hx]
    decide
  · rw [md5Step_eq (i := 32) (k := 5) (stepFn_round3 (by decide) (by decide)) (stepTables_round3 0) (by decide), hx]
    decide
  · rw [md5Step_eq (i := 48) (k := 0) (stepFn_round4 (by decide)) (stepTables_round4 0) (by decide), hx]
    decide

end Sys2Proof.Proofs
end

section
/-! PROOFS. The byte reversal (42_byte_reversal.md R100 to R104): the unit as the reversal of a vector, the reversed digest by the words of the
chaining value, the print as an injection; then the three statements of the family. -/

namespace Sys2Proof.Machine

/-! ## The reversal alone (R100, R102) -/

/-- The unit puts the bytes in the opposite order. -/
theorem reverseBytes_eq_reverse (d : Digest) : reverseBytes d = d.reverse := by
  apply Vector.ext
  intro i hi
  rw [reverseBytes_getElem d i hi, Vector.getElem_reverse]

theorem reverseBytes_involutive : Function.Involutive reverseBytes := by
  intro d
  rw [reverseBytes_eq_reverse, reverseBytes_eq_reverse, Vector.reverse_reverse]

/-- The fixed points: the condition on the low half of the places gives the one on the high half. -/
theorem reverseBytes_eq_self_iff (d : Digest) : reverseBytes d = d ↔ ∀ i : Fin 8, d[i.val] = d[15 - i.val] := by
  constructor
  · intro h i
    calc d[i.val] = (reverseBytes d)[i.val] := by simp only [h]
      _ = d[15 - i.val] := reverseBytes_getElem d i.val (by omega)
  · intro h
    apply Vector.ext
    intro i hi
    rw [reverseBytes_getElem d i hi]
    by_cases hlow : i < 8
    · exact (h ⟨i, hlow⟩).symm
    · have hback : 15 - (15 - i) = i := by omega
      simpa only [hback] using h ⟨15 - i, by omega⟩

/-! ## The reversed digest by words (R103) -/

/-- The words of the chaining value taken from the other end. -/
theorem words_rev (a b c d : Word) (q : Fin 4) : #v[a, b, c, d][q.rev.val] = #v[d, c, b, a][q.val] := by
  fin_cases q <;> rfl

/-- Byte `r` of word `q` of the reversed digest: the words run from `D` to `A`, each most significant byte first. -/
theorem reverseBytes_digestBytes_getElem (h : Chain) (q r : Fin 4) :
    (reverseBytes (digestBytes h))[4 * q.val + r.val] =
      (#v[h.d, h.c, h.b, h.a][q.val]).extractLsb' (24 - 8 * r.val) 8 := by
  have hindex : 15 - (4 * q.val + r.val) = 4 * q.rev.val + r.rev.val := by simp only [Fin.val_rev]; omega
  have hbit : 8 * r.rev.val = 24 - 8 * r.val := by simp only [Fin.val_rev]; omega
  rw [reverseBytes_getElem _ _ (by omega), ← words_rev, ← hbit, ← digestBytes_getElem]
  simp only [hindex]

/-- The word in a register slot, from its four bytes. -/
theorem word32_of_bytes {v : Digest} {q : Fin 4} {b : Fin 4 → Byte} (h : ∀ r : Fin 4, v[4 * q.val + r.val] = b r) :
    word32 v[4 * q.val] v[4 * q.val + 1] v[4 * q.val + 2] v[4 * q.val + 3] = word32 (b 0) (b 1) (b 2) (b 3) := by
  simp only [← h]
  rfl

/-- A `DIGESTq` register holding the digest bytes reads as the word `q` of the chaining value. -/
theorem readRegister_digest {e : Engine} {h : Chain} (hd : e.digest = digestBytes h) (q : Fin 4) :
    readRegister e (.digest q) = #v[h.a, h.b, h.c, h.d][q.val] := by
  simp only [readRegister, hd]
  exact (word32_of_bytes (digestBytes_getElem h q)).trans (word32_extract _)

/-- An `RDIGESTq` register holding the reversed bytes reads as the swapped word, counted from the other end. -/
theorem readRegister_rdigest {e : Engine} {h : Chain} (hr : e.rdigest = reverseBytes (digestBytes h)) (q : Fin 4) :
    readRegister e (.rdigest q) = bswap32 #v[h.d, h.c, h.b, h.a][q.val] := by
  simp only [readRegister, hr]
  exact (word32_of_bytes (reverseBytes_digestBytes_getElem h q)).trans rfl

/-! ## The reversed digest as one number (R103) -/

theorem digestBytes_toList (h : Chain) :
    (digestBytes h).toList = (le32 h.a).toList ++ (le32 h.b).toList ++ (le32 h.c).toList ++ (le32 h.d).toList := by
  simp only [digestBytes, Vector.toList_append]

/-- The bytes of a word read most significant first behind a number already read. -/
theorem foldl_le32_reverse (n : Nat) (w : Word) :
    (le32 w).toList.reverse.foldl (fun n b => 256 * n + b.toNat) n = 2 ^ 32 * n + w.toNat := by
  have hw := w.isLt
  simp only [le32_toList, List.reverse_cons, List.reverse_nil, List.nil_append, List.cons_append, List.foldl_cons,
    List.foldl_nil, BitVec.extractLsb'_toNat, Nat.shiftRight_eq_div_pow]
  omega

/-- A word put behind a vector of bits: the vector is the high part. -/
theorem toNat_append_word {n : Nat} (x : BitVec n) (w : Word) : (x ++ w).toNat = 2 ^ 32 * x.toNat + w.toNat := by
  rw [BitVec.toNat_append, ← Nat.shiftLeft_add_eq_or_of_lt w.isLt, Nat.shiftLeft_eq, Nat.mul_comm]

/-- `RDIGEST[0]` most significant, the reversed digest is the number `D ‖ C ‖ B ‖ A`. -/
theorem reverseBytes_digestBytes_toNat (h : Chain) :
    (reverseBytes (digestBytes h)).toList.foldl (fun n b => 256 * n + b.toNat) 0 =
      (h.d ++ h.c ++ h.b ++ h.a).toNat := by
  simp only [reverseBytes_eq_reverse, Vector.toList_reverse, digestBytes_toList, List.reverse_append, List.foldl_append,
    foldl_le32_reverse, toNat_append_word, Nat.mul_zero, Nat.zero_add]

/-! ## The print determines the bytes (43_hex_formatter.md R106, R107) -/

theorem hexDigit_injective : Function.Injective hexDigit := by
  unfold Function.Injective
  decide

/-- A byte is its two halves. -/
theorem byte_eq_of_halves {x y : Byte} (hhigh : highHalf x = highHalf y) (hlow : lowHalf x = lowHalf y) : x = y := by
  have hjoin (b : Byte) : highHalf b ++ lowHalf b = b := by
    rw [highHalf, lowHalf, BitVec.extractLsb'_append_extractLsb'_eq_extractLsb' (by rfl)]
    exact BitVec.extractLsb'_eq_self
  rw [← hjoin x, ← hjoin y, hhigh, hlow]

/-- Two prints are equal only for equal bytes: character `2i` gives the high half of byte `i`, character `2i + 1` the low half. -/
theorem hexLower_injective : Function.Injective hexLower := by
  intro r r' h
  apply Vector.ext
  intro i hi
  apply byte_eq_of_halves
  · apply hexDigit_injective
    rw [← hexLower_even r i hi, ← hexLower_even r' i hi]
    simp only [h]
  · apply hexDigit_injective
    rw [← hexLower_odd r i hi, ← hexLower_odd r' i hi]
    simp only [h]

end Sys2Proof.Machine

namespace Sys2Proof.Proofs

open Sys2Proof Sys2Proof.Machine

/-- Settles O45: an involution is its own inverse, and the fixed points are compared place by place. -/
theorem reversalIsInvolution : Obligations.ReversalIsInvolution :=
  ⟨reverseBytes_involutive, reverseBytes_involutive.bijective, reverseBytes_eq_self_iff⟩

/-- Settles O46: the bytes by index, the registers by their four bytes, the number word by word. -/
theorem reversedDigestByWords : Obligations.ReversedDigestByWords := by
  refine ⟨reverseBytes_digestBytes_getElem, fun e h hd hr q => ?_, reverseBytes_digestBytes_toNat, fun e hd hr => ?_⟩
  · rw [hd] at hr
    have hrev : 3 - q = q.rev := by revert q; decide
    refine ⟨readRegister_digest hd q, readRegister_rdigest hr q, ?_⟩
    rw [readRegister_rdigest hr, readRegister_digest hd, hrev, words_rev]
  · rw [hd] at hr
    rw [readRegister_rdigest hr]
    decide

/-- Settles O47: `KEY` prints `RDIGEST`; the print is injective, so that it prints `DIGEST` too only at a fixed point of the reversal. -/
theorem reversalIsObservable : Obligations.ReversalIsObservable := by
  intro s hp
  obtain ⟨t, ht, hengine, -, -⟩ := exec_final_absorb hp
  refine ⟨t, ht, ?_, ?_⟩
  · rw [hengine, Engine.finish_key, Engine.finish_rdigest]
  · simp only [hengine, Engine.finish_key, Engine.finish_digest]
    rw [hexLower_injective.eq_iff, reverseBytes_eq_self_iff]

end Sys2Proof.Proofs
end

section
/-! PROOFS. The hex-digit formatter (43_hex_formatter.md R106 to R111): the codes of the digits, what the print lets one recover, the key by the
words of the chaining value, and the key read through the window; then the four statements of the family. -/

namespace Sys2Proof.Machine

/-! ## The codes of the digits, and their values (R107, R111) -/

theorem hexDigit_toNat_of_le {v : BitVec 4} (h : v.toNat ≤ 9) : (hexDigit v).toNat = 0x30 + v.toNat := by
  rw [hexDigit, if_pos h]
  bv_omega

theorem hexDigit_toNat_of_ge {v : BitVec 4} (h : 10 ≤ v.toNat) : (hexDigit v).toNat = 0x61 + (v.toNat - 10) := by
  rw [hexDigit, if_neg (Nat.not_le.mpr h)]
  bv_omega

/-- The inverse of `HexDigit` on its sixteen codes: the decimal digits end at 0x39, the letters follow from 0x61 on. -/
def hexValue (c : Byte) : Nat := if c.toNat ≤ 0x39 then c.toNat - 0x30 else c.toNat - 0x61 + 10

theorem hexValue_hexDigit (v : BitVec 4) : hexValue (hexDigit v) = v.toNat := by
  by_cases h : v.toNat ≤ 9
  · rw [hexValue, hexDigit_toNat_of_le h, if_pos (by omega)]
    omega
  · rw [hexValue, hexDigit_toNat_of_ge (by omega), if_neg (by omega)]
    omega

/-- A byte as the number of its two halves. -/
theorem byte_toNat_eq_halves (b : Byte) : b.toNat = 16 * (highHalf b).toNat + (lowHalf b).toNat := by
  have hb := b.isLt
  simp only [highHalf, lowHalf, BitVec.extractLsb'_toNat, Nat.shiftRight_eq_div_pow]
  omega

/-- A byte is recovered from its two characters. -/
theorem byte_toNat_eq_hexValue (r : Digest) (i : Nat) (h : i < 16) :
    r[i].toNat = 16 * hexValue (hexLower r)[2 * i] + hexValue (hexLower r)[2 * i + 1] := by
  rw [hexLower_even r i h, hexLower_odd r i h, hexValue_hexDigit, hexValue_hexDigit, byte_toNat_eq_halves]

/-! ## The key by the words of the chaining value (R110) -/

/-- The high half of the byte `r` of a word counted from its most significant end is the digit `2 r`. -/
theorem highHalf_byte (w : Word) (r : Fin 4) :
    highHalf (w.extractLsb' (24 - 8 * r.val) 8) = w.extractLsb' (28 - 4 * (2 * r.val)) 4 := by
  have hbit : 24 - 8 * r.val + 4 = 28 - 4 * (2 * r.val) := by omega
  rw [highHalf, extractLsb'_extractLsb'_add w (by omega), hbit]

/-- Its low half is the digit `2 r + 1`. -/
theorem lowHalf_byte (w : Word) (r : Fin 4) :
    lowHalf (w.extractLsb' (24 - 8 * r.val) 8) = w.extractLsb' (28 - 4 * (2 * r.val + 1)) 4 := by
  have hbit : 24 - 8 * r.val + 0 = 28 - 4 * (2 * r.val + 1) := by omega
  rw [lowHalf, extractLsb'_extractLsb'_add w (by omega), hbit]

/-- Byte `4 q + r` of the reversed digest prints as the digits `2 r` and `2 r + 1` of word `q` of `D`, `C`, `B`, `A`. -/
theorem key_getElem_word (h : Chain) (q : Fin 4) (t : Fin 8) :
    (hexLower (reverseBytes (digestBytes h)))[8 * q.val + t.val] =
      hexDigit ((#v[h.d, h.c, h.b, h.a][q.val]).extractLsb' (28 - 4 * t.val) 4) := by
  let r : Fin 4 := ⟨t.val / 2, by omega⟩
  obtain ht | ht : t.val = 2 * r.val ∨ t.val = 2 * r.val + 1 := by simp only [r]; omega
  · have hplace : 8 * q.val + 2 * r.val = 2 * (4 * q.val + r.val) := by omega
    simp only [ht, hplace]
    rw [hexLower_even _ _ (by omega), reverseBytes_digestBytes_getElem, highHalf_byte]
  · have hplace : 8 * q.val + (2 * r.val + 1) = 2 * (4 * q.val + r.val) + 1 := by omega
    simp only [ht, hplace]
    rw [hexLower_odd _ _ (by omega), reverseBytes_digestBytes_getElem, lowHalf_byte]

/-- Four words put together, the most significant first: each is found again above those behind it. -/
theorem append_words_field (d c b a : Word) (q : Fin 4) :
    (d ++ c ++ b ++ a).extractLsb' (32 * (3 - q.val)) 32 = #v[d, c, b, a][q.val] := by
  have hdrop {n : Nat} (x : BitVec n) (w : Word) (k : Nat) :
      (x ++ w).extractLsb' (k + 32) 32 = x.extractLsb' k 32 :=
    BitVec.extractLsb'_append_eq_of_le (Nat.le_add_left 32 k)
  match q with
  | 0 => exact (hdrop _ _ 64).trans ((hdrop _ _ 32).trans BitVec.extractLsb'_append_eq_left)
  | 1 => exact (hdrop _ _ 32).trans ((hdrop _ _ 0).trans BitVec.extractLsb'_append_eq_right)
  | 2 => exact (hdrop _ _ 0).trans BitVec.extractLsb'_append_eq_right
  | 3 => exact BitVec.extractLsb'_append_eq_right

/-- Digit `t` of word `q` is digit `8 q + t` of the number. -/
theorem append_words_digit (d c b a : Word) (q : Fin 4) (t : Fin 8) :
    (#v[d, c, b, a][q.val]).extractLsb' (28 - 4 * t.val) 4 =
      (d ++ c ++ b ++ a).extractLsb' (124 - 4 * (8 * q.val + t.val)) 4 := by
  have hbit : 32 * (3 - q.val) + (28 - 4 * t.val) = 124 - 4 * (8 * q.val + t.val) := by omega
  rw [← append_words_field, extractLsb'_extractLsb'_add _ (by omega), hbit]

/-! ## The key through the window (R109) -/

/-- An array of bytes read four at a time is the whole array in index order. -/
theorem toList_eq_flatMap_four {m : Nat} (v : Vector Byte (4 * m)) :
    v.toList = (List.finRange m).flatMap fun q =>
      [v[4 * q.val], v[4 * q.val + 1], v[4 * q.val + 2], v[4 * q.val + 3]] := by
  have hofFn : List.ofFn (fun i : Fin (4 * m) => v[i.val]) = v.toList := by
    rw [← Vector.toList_ofFn, Vector.ofFn_getElem]
  rw [← hofFn, List.ofFn_mul', List.ofFn_eq_map, List.flatMap_def]
  rfl

/-- The registers `KEY0` to `KEY7` hold the key in index order. -/
theorem le32_readRegister_key (e : Engine) (q : Fin 8) :
    (le32 (readRegister e (.key q))).toList =
      [e.key[4 * q.val], e.key[4 * q.val + 1], e.key[4 * q.val + 2], e.key[4 * q.val + 3]] := by
  rw [readRegister, le32_word32]

/-- A character of a key whose first characters are given. -/
theorem key_getElem_of_take {k : Key} {l : List Byte} {n : Nat} (h : k.toList.take n = l) {i : Nat} (hi : i < l.length)
    (hk : i < 32) : k[i] = l[i] := by
  subst h
  simp

end Sys2Proof.Machine

namespace Sys2Proof.Proofs

open Sys2Proof Sys2Proof.Machine

/-- Settles O48: the two ranges of the definition; their codes lie in 0x30 to 0x39 and in 0x61 to 0x66. -/
theorem hexDigitCodes : Obligations.HexDigitCodes := by
  intro v
  have hv := v.isLt
  refine ⟨hexDigit_toNat_of_le, hexDigit_toNat_of_ge, ?_⟩
  by_cases h : v.toNat ≤ 9
  · have hcode := hexDigit_toNat_of_le h
    omega
  · have hcode := hexDigit_toNat_of_ge (Nat.not_le.mp h)
    omega

/-- Settles O49: a register holds four characters, first one lowest; so the registers one after the other are the key. -/
theorem keyThroughTheWindow : Obligations.KeyThroughTheWindow := by
  refine ⟨fun e q k => word32_slice_byte (m := 8) e.key q k, fun e => ?_, fun e h => ?_⟩
  · have hregs : [0, 1, 2, 3, 4, 5, 6, 7] = List.finRange 8 := by decide
    simp only [hregs, le32_readRegister_key]
    exact (toList_eq_flatMap_four (m := 8) e.key).symm
  · have hchar (i : Nat) (hi : i < 8) := key_getElem_of_take h hi (by omega)
    constructor
    · simp (disch := decide) only [readRegister, hchar]
      decide
    · simp (disch := decide) only [readRegister, hchar]
      decide

/-- Settles O50: the digits word by word; digit `j` of the number is digit `j % 8` of its word `j / 8`. -/
theorem keyByWords : Obligations.KeyByWords := by
  refine ⟨key_getElem_word, fun h j => ?_⟩
  have hkey := key_getElem_word h ⟨j.val / 8, by omega⟩ ⟨j.val % 8, by omega⟩
  rw [append_words_digit] at hkey
  simpa only [Nat.div_add_mod] using hkey

/-- Settles O51: the unit and the reversal before it are injective, and `hexValue` inverts `HexDigit`. -/
theorem hexPrintIsInjective : Obligations.HexPrintIsInjective :=
  ⟨fun _ _ h => hexLower_injective h, fun _ _ h => reverseBytes_involutive.injective (hexLower_injective h),
    hexValue, hexValue_hexDigit, fun r i => byte_toNat_eq_hexValue r i.val i.isLt⟩

end Sys2Proof.Proofs
end

section
/-! PROOFS. The faults (60_exceptions.md R133, R136 to R140, R146): the registers after any command word, runs of command writes, what a
host step can do in phase `FAULT`, the outputs outside phase `DONE`; then the six statements of the family. -/

namespace Sys2Proof.Machine

open Host

/-! ## A legal command in phase `DONE` (R133) -/

theorem Engine.afterCommand_done {e : Engine} {i : Instr} (hp : e.phase = .done) (hi : i ≠ .init) :
    e.afterCommand i = e.enterFault .sequenceError (encode i) := by
  cases i with
  | init => exact absurd rfl hi
  | push cp => simp only [Engine.afterCommand, Engine.checked, hp]
  | final => simp only [Engine.afterCommand, Engine.checked, hp]

/-! ## Fault entry (R136) -/

@[simp] theorem Engine.enterFault_chain (e : Engine) (c : Cause) (w : Word) : (e.enterFault c w).chain = e.chain := rfl

theorem Engine.enterFault_outputsZero (e : Engine) (c : Cause) (w : Word) : OutputsZero (e.enterFault c w) :=
  ⟨Engine.enterFault_digest e c w, Engine.enterFault_rdigest e c w, Engine.enterFault_key e c w⟩

theorem Engine.enterFault_status (e : Engine) (c : Cause) (w : Word) :
    (e.enterFault c w).status = 0x00000002 ||| (c.code.setWidth 32 <<< 8) := by
  rw [Engine.status_of_fault (Engine.enterFault_phase e c w), Engine.enterFault_cause]

/-! ## The registers after a command word (40_commands.md R64) -/

/-- The registers after any command word, legal or not: a function of the registers before it alone. -/
def Engine.afterWord (e : Engine) (w : Word) : Engine :=
  match decode w with
  | .instr i => e.afterCommand i
  | .illegal _ => if e.phase = .fault then e else e.enterFault .illegalCommand w

theorem Engine.afterWord_legal {w : Word} {i : Instr} (hd : decode w = .instr i) (e : Engine) :
    e.afterWord w = e.afterCommand i := by
  simp only [Engine.afterWord, hd]

theorem Engine.afterWord_illegal {w : Word} {why : IllegalWord} (hd : decode w = .illegal why) (e : Engine) :
    e.afterWord w = if e.phase = .fault then e else e.enterFault .illegalCommand w := by
  simp only [Engine.afterWord, hd]

theorem command_eq (w : Word) (s : State) : command w s = .next (s.withEngine (s.engine.afterWord w)) := by
  cases hd : decode w with
  | instr i => rw [command, hd, Engine.afterWord_legal hd]; exact exec_eq i s
  | illegal why => rw [command, hd, Engine.afterWord_illegal hd]; exact illegalCommand_eq w s

/-- Every write of a command word completes with OK (20_memory.md R36). -/
theorem perform_commandWrite_eq (w : Word) (s : State) :
    perform (commandWrite w) s = .next ((s.withEngine (s.engine.afterWord w)).respond .written) :=
  perform_commandWrite_of_command (command_eq w s)

/-- The word of `INIT` is accepted whatever the phase (R137 (2)). -/
theorem Engine.afterWord_init (e : Engine) : e.afterWord 0x10000000 = Engine.reset :=
  Engine.afterWord_legal ((decode_init_iff _).mpr rfl) e

theorem perform_commandWrite_init (s : State) :
    perform (commandWrite 0x10000000) s = .next ((s.withEngine Engine.reset).respond .written) := by
  rw [perform_commandWrite_eq, Engine.afterWord_init]

/-- Phase `FAULT` swallows every other word (R137 (3), R140). -/
theorem Engine.afterWord_fault {e : Engine} {w : Word} (hp : e.phase = .fault) (hw : w ≠ 0x10000000) :
    e.afterWord w = e := by
  cases hd : decode w with
  | illegal why => rw [Engine.afterWord_illegal hd, if_pos hp]
  | instr i =>
    have hi : i ≠ .init := fun hi => hw ((decode_init_iff w).mp (hi ▸ hd))
    rw [Engine.afterWord_legal hd, Engine.afterCommand_fault hp hi]

theorem legalWord_iff (w : Word) : legalWord w = true ↔ ∃ i, decode w = .instr i := by
  cases hd : decode w with
  | instr i => simp [legalWord, hd]
  | illegal why => simp [legalWord, hd]

/-- `PUSH` in phase `ABSORB`: the range of its character decides (R131). -/
theorem Engine.afterCommand_push_absorb {e : Engine} (hp : e.phase = .absorb) (cp : CodePoint) :
    e.afterCommand (.push cp) =
      if 128 ≤ cp.toNat then e.enterFault .encodingError (encode (.push cp)) else e.absorb (codePointByte cp) := by
  split
  next hc => exact Engine.afterCommand_push_notAscii hp hc
  next hc => exact Engine.afterCommand_push_ascii hp (Nat.not_le.mp hc)

/-- The message byte is the low byte of the command word (30_encoding.md R52). -/
theorem codePointByte_cpField (w : Word) : codePointByte (cpField w) = w.extractLsb' 0 8 := by
  rw [codePointByte, cpField, extractLsb'_extractLsb'_add _ (by omega), Nat.zero_add]

/-- A legal word in phase `ABSORB`. -/
theorem Engine.afterWord_absorb {e : Engine} {w : Word} (hp : e.phase = .absorb) (hw : w ≠ 0x10000000)
    (hl : legalWord w = true) :
    e.afterWord w =
      if w = 0x30000000 then e.finish
      else if 128 ≤ (w.extractLsb' 0 21).toNat then e.enterFault .encodingError w
      else e.absorb (w.extractLsb' 0 8) := by
  obtain ⟨i, hd⟩ := (legalWord_iff w).mp hl
  rw [Engine.afterWord_legal hd]
  cases i with
  | init => exact absurd ((decode_init_iff w).mp hd) hw
  | push cp =>
    have hfinal : w ≠ 0x30000000 := fun h => by
      simpa using hd.symm.trans ((decode_final_iff w).mpr h)
    obtain ⟨-, rfl⟩ := (decode_push_iff w cp).mp hd
    rw [if_neg hfinal, Engine.afterCommand_push_absorb hp, encode_of_decode hd, codePointByte_cpField, cpField]
  | final => rw [if_pos ((decode_final_iff w).mp hd), Engine.afterCommand_final hp]

/-- The priority of the conditions on a word other than `INIT` (R137 (3) to (6)). -/
theorem Engine.afterWord_priority (e : Engine) {w : Word} (hw : w ≠ 0x10000000) :
    e.afterWord w =
      if e.phase = .fault then e
      else if legalWord w = false then e.enterFault .illegalCommand w
      else if e.phase = .done then e.enterFault .sequenceError w
      else if w = 0x30000000 then e.finish
      else if 128 ≤ (w.extractLsb' 0 21).toNat then e.enterFault .encodingError w
      else e.absorb (w.extractLsb' 0 8) := by
  by_cases hfault : e.phase = .fault
  · rw [if_pos hfault, Engine.afterWord_fault hfault hw]
  rw [if_neg hfault]
  cases hd : decode w with
  | illegal why =>
    have hl : legalWord w = false := by rw [legalWord, hd]
    rw [if_pos hl, Engine.afterWord_illegal hd, if_neg hfault]
  | instr i =>
    have hl : legalWord w = true := (legalWord_iff w).mpr ⟨i, hd⟩
    rw [if_neg (by simp [hl])]
    by_cases hdone : e.phase = .done
    · have hi : i ≠ .init := fun hi => hw ((decode_init_iff w).mp (hi ▸ hd))
      rw [if_pos hdone, Engine.afterWord_legal hd, Engine.afterCommand_done hdone hi, encode_of_decode hd]
    · have habsorb : e.phase = .absorb := by
        cases hp : e.phase with
        | absorb => rfl
        | done => exact absurd hp hdone
        | fault => exact absurd hp hfault
      rw [if_neg hdone, Engine.afterWord_absorb habsorb hw hl]

/-! ## Runs of command words (70_reset_and_hazards.md R162) -/

/-- A run of command writes, of any words: the engine takes them in order, the bus answers each of them with OK. -/
theorem runSteps_commandWrites (ws : List Word) (s : State) :
    runSteps (ws.map commandWrite) s =
      .next { s with
        engine := ws.foldl Engine.afterWord s.engine
        observed := List.replicate ws.length .written ++ s.observed } := by
  induction ws generalizing s with
  | nil => rfl
  | cons w ws ih =>
    rw [List.map_cons, runSteps, perform_commandWrite_eq, andThen_next, ih]
    simp only [State.respond_engine, State.withEngine_engine, State.respond_observed, State.withEngine_observed,
      List.length_cons, List.replicate_succ', List.append_assoc, List.singleton_append, List.foldl_cons]
    rfl

theorem foldl_afterWord_fault {ws : List Word} {e : Engine} (hp : e.phase = .fault) (hws : ∀ w ∈ ws, w ≠ 0x10000000) :
    ws.foldl Engine.afterWord e = e := by
  induction ws with
  | nil => rfl
  | cons w ws ih =>
    obtain ⟨hw, hws⟩ := List.forall_mem_cons.mp hws
    rw [List.foldl_cons, Engine.afterWord_fault hp hw, ih hws]

/-! ## A host step in phase `FAULT` (R139) -/

/-- No access of the bus is taken for the reset input (70_reset_and_hazards.md R150). -/
theorem route_eq_reset_iff (x : HostStep) : route x = .reset ↔ x = .reset := by
  cases x with
  | reset => exact iff_of_true rfl rfl
  | read off size =>
    refine iff_of_false (fun h => ?_) (by simp)
    by_cases hw : inWindow off = true
    · rcases route_read_inWindow hw size with ⟨r, rfl, rfl⟩ | hi
      · simp at h
      · simp [hi] at h
    · simp [route_read_outside hw] at h
  | write off bytes =>
    refine iff_of_false (fun h => ?_) (by simp)
    by_cases hw : inWindow off = true
    · rcases route_write_inWindow hw bytes with ⟨w, rfl, rfl⟩ | hi
      · exact absurd ((route_commandWrite w).symm.trans h) (by simp)
      · simp [hi] at h
    · simp [route_write_outside hw] at h

/-- Everything a command word can do in phase `FAULT`. -/
theorem CommandEffect.of_fault {w : Word} {e e' : Engine} (h : CommandEffect w e e') (hp : e.phase = .fault) :
    e' = e ∨ (w = 0x10000000 ∧ e' = Engine.reset) := by
  cases h with
  | init hd => exact .inr ⟨(decode_init_iff w).mp hd, rfl⟩
  | ignored => exact .inl rfl
  | illegal _ _ hne => exact absurd hp hne
  | outOfSequence _ _ _ hdone => simp [hp] at hdone
  | absorbed _ _ habsorb => simp [hp] at habsorb
  | notAscii _ _ habsorb => simp [hp] at habsorb
  | finished _ habsorb => simp [hp] at habsorb

/-- Everything a host step can do in phase `FAULT`: nothing to the registers, or the return. -/
theorem perform_of_fault {x : HostStep} {s t : State} (h : perform x s = .next t) (hp : s.engine.phase = .fault) :
    t.engine = s.engine ∨ ((x = .reset ∨ route x = .command 0x10000000) ∧ t.engine = Engine.reset) := by
  rcases perform_cases h with ⟨hr, rfl⟩ | ⟨_, -, rfl⟩ | ⟨_, -, rfl⟩ | ⟨_, -, rfl⟩ | ⟨w, e, hr, he, rfl⟩
  · exact .inr ⟨.inl ((route_eq_reset_iff x).mp hr), rfl⟩
  · exact .inl rfl
  · exact .inl rfl
  · exact .inl rfl
  · rcases he.of_fault hp with rfl | ⟨rfl, rfl⟩
    · exact .inl rfl
    · exact .inr ⟨.inr hr, rfl⟩

/-! ## The outputs outside phase `DONE` (R146) -/

theorem readRegister_of_outputsZero {e : Engine} {r : WindowReg} (h : OutputsZero e)
    (hr : (∃ q, r = .digest q) ∨ (∃ q, r = .rdigest q) ∨ (∃ q, r = .key q)) : readRegister e r = 0 := by
  obtain ⟨hdigest, hrdigest, hkey⟩ := h
  rcases hr with ⟨q, rfl⟩ | ⟨q, rfl⟩ | ⟨q, rfl⟩
  · simp only [readRegister, hdigest, Vector.getElem_replicate]; rfl
  · simp only [readRegister, hrdigest, Vector.getElem_replicate]; rfl
  · simp only [readRegister, hkey, Vector.getElem_replicate]; rfl

/-- The key of the message whose bytes the registers hold (40_commands.md R63). -/
theorem Engine.Holds.finish_key {e : Engine} {m : List Byte} (h : e.Holds m) : e.finish.key = keyOf m := by
  rw [Engine.finish_key, ← Engine.finish_digest, h.finish_digest, keyOf]

end Sys2Proof.Machine

namespace Sys2Proof.Proofs

open Host Sys2Proof Sys2Proof.Machine

/-- Settles O15: a write that is not four bytes at `CMD` is not legal; any other is a command word, and `afterWord_priority` orders its
conditions. -/
theorem faultPriority : Obligations.FaultPriority := by
  refine ⟨fun off bytes s h0 h128 hbad => ?_, perform_commandWrite_init, fun w s hw => ?_⟩
  · rcases route_write_inWindow ((inWindow_iff off).mpr ⟨h0, h128⟩) bytes with ⟨w, hoff, rfl⟩ | hr
    · exact absurd hbad (by simp [hoff])
    · exact (illegal_access hr s []).1
  · rw [perform_commandWrite_eq, Engine.afterWord_priority _ hw]
    rfl

/-- Settles O14: fault entry register by register; in phase `FAULT` a host step keeps every register or is the return. -/
theorem faultEntry : Obligations.FaultEntry := by
  refine ⟨fun e c w _ => ⟨rfl, rfl, rfl, e.enterFault_outputsZero c w, e.enterFault_chain c w, rfl, rfl,
    e.enterFault_status c w⟩, fun x s t ht hp => ?_, fun w s => ⟨_, perform_commandWrite_eq w s⟩⟩
  rcases perform_of_fault ht hp with hkept | ⟨-, hreset⟩
  · exact .inl ⟨congrArg Engine.cause hkept, congrArg Engine.faultInfo hkept⟩
  · exact .inr hreset

/-- Settles O16: each word leaves the registers, so the whole run does. -/
theorem faultPhaseIgnoresCommands : Obligations.FaultPhaseIgnoresCommands := by
  refine ⟨fun ws s hp hws => ?_, fun x off s _ hr => (illegal_access hr s []).1⟩
  rw [runSteps_commandWrites, foldl_afterWord_fault hp hws]

/-- Settles O17: a host step that does not keep the registers is one of the two returns. -/
theorem faultReturn : Obligations.FaultReturn := by
  refine ⟨fun x s t ht hp hleft => ?_, fun s _ => ⟨perform_commandWrite_init s, perform_reset s⟩⟩
  rcases perform_of_fault ht hp with hkept | hreturn
  · exact absurd (hkept ▸ hp) hleft
  · exact hreturn

/-- Settles O26: the outputs of a sound state are zero outside phase `DONE`, and the reset registers hold the empty message. -/
theorem notAFault : Obligations.NotAFault := by
  refine ⟨fun s r hsound hp hr => ?_, fun s => ⟨_, exec_init s, rfl, rfl⟩, fun s hs => ?_⟩
  · rw [perform_read, readRegister_of_outputsZero (hsound.outputsZero hp) hr]
    rfl
  · have hholds : s.engine.Holds [] := hs ▸ holds_reset
    obtain ⟨t, ht, he, -, -⟩ := exec_final_absorb (s := s) (by rw [hs]; rfl)
    refine ⟨t, ht, ?_, ?_, ?_⟩
    · rw [he, Engine.finish_phase]
    · rw [he, hholds.finish_digest]
    · rw [he, hholds.finish_key]

/-- Settles O11: in phase `DONE` either command enters the fault with its own word, and fault entry does the rest. -/
theorem continuingAFinishedMessageFaults : Obligations.ContinuingAFinishedMessageFaults := by
  intro i s hi hp
  have hexec : exec i s = .next (s.withEngine (s.engine.enterFault .sequenceError (encode i))) := by
    rw [exec_eq, Engine.afterCommand_done hp hi]
  exact ⟨_, hexec, rfl, rfl, rfl, Engine.enterFault_outputsZero _ _ _, rfl, rfl, rfl,
    Engine.enterFault_status _ .sequenceError _, rfl, rfl⟩

end Sys2Proof.Proofs
end

section
/-! PROOFS. Encodings and the assembler (30_encoding.md R50 to R59): the round trips on a word and on its bytes, the lines of a program text;
then the four statements of the family. -/

namespace Sys2Proof

open Machine

/-! ## Operands and bytes (R51, R52; 20_memory.md R34) -/

/-- Every operand fits its field. -/
theorem instr_wf (i : Instr) : i.wf = true := by
  cases i with
  | init => rfl
  | push cp =>
    rw [Instr.wf, codePointOk, decide_eq_true_iff]
    omega
  | final => rfl

/-- The decoder reads the bytes of an instruction as it reads its word. -/
theorem decodeBytes_encodeBytes (i : Instr) : decodeBytes (encodeBytes i) = .instr i := by
  rw [encodeBytes, decodeBytes_le32, decode_encode]

end Sys2Proof

namespace Sys2Proof.Machine

/-! ## Lines of a program text (R58, R59) -/

/-- The number of a character is in the range of a `PUSH` operand. -/
theorem codePointOk_toNat (c : CodePoint) : codePointOk c.toNat = true := instr_wf (.push c)

/-- A number that is a character's assembles to the `PUSH` of that character. -/
theorem pushStep_toNat (c : CodePoint) : pushStep c.toNat = commandStep (.push c) := by
  rw [pushStep, BitVec.ofNat_toNat, BitVec.setWidth_eq]

theorem assemble_derive (s : List CodePoint) : assemble [.derive (s.map BitVec.toNat)] = some (deriveSteps s) := by
  have hwf : [SourceLine.derive (s.map BitVec.toNat)].all SourceLine.wf = true := by
    simp [SourceLine.wf, codePointOk_toNat]
  rw [assemble, if_pos hwf]
  simp [SourceLine.steps, deriveSteps, pushStep_toNat]

/-- The expansion of a `DERIVE` line, written line by line. -/
theorem assemble_expansion (s : List CodePoint) :
    assemble (.init :: s.map (fun c => .push c.toNat) ++ [.final]) = some (deriveSteps s) := by
  have hwf : (SourceLine.init :: s.map (fun c : CodePoint => .push c.toNat) ++ [SourceLine.final]).all
      SourceLine.wf = true := by
    simp [SourceLine.wf, codePointOk_toNat]
  have hpushes : (s.map fun c => SourceLine.push c.toNat).flatMap SourceLine.steps =
      s.map fun c => commandStep (.push c) := by
    rw [List.flatMap_map, List.map_eq_flatMap]
    simp only [SourceLine.steps, pushStep_toNat]
  rw [assemble, if_pos hwf, List.flatMap_append, List.flatMap_cons, hpushes]
  rfl

/-- A text with one line that is not well-formed assembles to nothing. -/
theorem assemble_of_not_wf {l : SourceLine} (h : l.wf = false) : assemble [l] = none := by
  simp [assemble, h]

end Sys2Proof.Machine

namespace Sys2Proof.Proofs

open Host Sys2Proof Sys2Proof.Machine

/-- Settles O1: the words are read by the decoder as they stand. -/
theorem writtenOutWordsDecode : Obligations.WrittenOutWordsDecode := by
  unfold Obligations.WrittenOutWordsDecode
  decide

/-- Settles O2: the round trip on the word; the bytes in bus order make the word again. -/
theorem decodeOfEncode : Obligations.DecodeOfEncode :=
  fun i _ => ⟨decode_encode i, decodeBytes_encodeBytes i⟩

/-- Settles O3: every instruction is well-formed, and a legal word is the encoding of what it decodes to. -/
theorem encodeOfDecode : Obligations.EncodeOfDecode :=
  fun _ i hd => ⟨instr_wf i, encode_of_decode hd⟩

/-- Settles O7: both texts assemble to the steps of `DERIVE`; a number beyond its field fails the check of its line. -/
theorem deriveLineAssembles : Obligations.DeriveLineAssembles := by
  refine ⟨assemble_derive, assemble_expansion, fun n hn => assemble_of_not_wf ?_, fun n hn => assemble_of_not_wf ?_⟩
  · exact decide_eq_false (Nat.not_le.mpr hn)
  · exact decide_eq_false (Nat.not_le.mpr hn)

end Sys2Proof.Proofs
end

section
/-! PROOFS. The step of the machine (10_state.md R10; 20_memory.md R30 to R41; 70_reset_and_hazards.md R162): a host step as a function of its
route, runs and host programs, which step changes which register; then the eight statements of the family. -/

namespace Sys2Proof.Machine

open Host

/-! ## A host step as a function of its route (20_memory.md R30, R33, R35, R36; 70_reset_and_hazards.md R150) -/

/-- The registers after a host step: only a command word and the reset input reach them. -/
def Engine.afterRoute (e : Engine) : Route → Engine
  | .reset => Engine.reset
  | .outside _ => e
  | .illegal _ => e
  | .read _ => e
  | .command w => e.afterWord w

/-- The responses to a host step: one to every access, none to the reset input. -/
def Engine.answers (e : Engine) : Route → List Response
  | .reset => []
  | .outside off => [.silent off]
  | .illegal off => [.error off]
  | .read r => [.data (readRegister e r)]
  | .command _ => [.written]

/-- Every host step completes, in every state. -/
theorem perform_eq (x : HostStep) (s : State) :
    perform x s = .next { s with
      engine := s.engine.afterRoute (route x)
      observed := s.engine.answers (route x) ++ s.observed } := by
  cases hr : route x with
  | reset => simp only [perform, hr]; rfl
  | outside off => simp only [perform, hr]; rfl
  | illegal off => simp only [perform, hr]; rfl
  | read r => simp only [perform, hr]; rfl
  | command w => simp only [perform, hr, command_eq, andThen_next]; rfl

theorem not_inWindow {off : Int} (h : off < 0 ∨ 128 ≤ off) : ¬ inWindow off = true := by
  rw [inWindow_iff]
  omega

/-- The engine does not respond to an access outside the window. -/
theorem perform_outside {x : HostStep} {off : Int} (hr : route x = .outside off) (s : State) :
    perform x s = .next (s.respond (.silent off)) := by
  rw [perform_eq, hr]
  rfl

/-- The sequencer gets a word only by the write of it to `CMD` (R32 (d)). -/
theorem eq_commandWrite_of_route {x : HostStep} {w : Word} (h : route x = .command w) : x = commandWrite w := by
  cases x with
  | reset => cases h
  | write off bytes =>
    obtain ⟨rfl, rfl⟩ := (route_write_iff off bytes w).mp h
    rfl
  | read off size =>
    by_cases hw : inWindow off = true
    · rcases route_read_inWindow hw size with ⟨r, rfl, rfl⟩ | hi
      · exact absurd ((route_read_offset r).symm.trans h) (by simp)
      · exact absurd (hi.symm.trans h) (by simp)
    · exact absurd ((route_read_outside hw size).symm.trans h) (by simp)

/-! ## Runs and host programs (70_reset_and_hazards.md R162, 60_exceptions.md R134) -/

theorem runSteps_next (xs : List HostStep) (s : State) : ∃ t, runSteps xs s = .next t := by
  induction xs generalizing s with
  | nil => exact ⟨s, rfl⟩
  | cons x xs ih =>
    rw [runSteps, perform_eq, andThen_next]
    exact ih _

/-- A host program goes on behind a step that is not an illegal access. -/
theorem runProgram_cons {x : HostStep} (hx : ∀ off, route x ≠ .illegal off) (xs : List HostStep) (s : State) :
    runProgram (x :: xs) s = andThen (perform x s) (runProgram xs) := by
  cases hr : route x with
  | illegal off => exact absurd hr (hx off)
  | reset => simp only [runProgram, hr]
  | outside off => simp only [runProgram, hr]
  | read r => simp only [runProgram, hr]
  | command w => simp only [runProgram, hr]

theorem runProgram_eq_runSteps {p : List HostStep} (hp : SafeProgram p) (s : State) :
    runProgram p s = runSteps p s := by
  induction p generalizing s with
  | nil => rfl
  | cons x xs ih =>
    obtain ⟨hx, hxs⟩ := List.forall_mem_cons.mp hp
    rw [runProgram_cons hx, runSteps, perform_eq, andThen_next, andThen_next]
    exact ih hxs _

/-! ## The next step of the bus (10_state.md R10) -/

theorem step_of_pending_nil {s : State} (hs : s.pending = []) : step s = .next s := by
  simp only [step, deliver, hs]

theorem step_of_pending_cons {s : State} {x : HostStep} {rest : List HostStep} (hs : s.pending = x :: rest) :
    step s = perform x { s with pending := rest } := by
  simp only [step, deliver, hs, State.popPending, List.tail_cons]

/-- A pending command runs, then gets its OK response. -/
theorem step_of_pending_command {s : State} {w : Word} {i : Instr} {rest : List HostStep}
    (hs : s.pending = commandWrite w :: rest) (hd : decode w = .instr i) :
    step s = andThen (exec i { s with pending := rest }) fun t => .next (t.respond .written) := by
  rw [step_of_pending_cons hs, perform_commandWrite, command, hd]

/-- The bytes of a number on the bus are those of its 32-bit word (20_memory.md R34). -/
theorem leBytes_four (n : Nat) : leBytes 4 n = (le32 (BitVec.ofNat 32 n)).toList := by
  simp only [leBytes, le32_toList, Nat.div_div_eq_div_mul, List.cons.injEq, and_true]
  refine ⟨?_, ?_, ?_, ?_⟩
  all_goals
    apply BitVec.eq_of_toNat_eq
    simp only [BitVec.extractLsb'_toNat, BitVec.toNat_ofNat, Nat.shiftRight_eq_div_pow]
    omega

/-- Bits above the 32 of a word are not carried. -/
theorem leBytes_four_mod (n : Nat) : leBytes 4 (n % 2 ^ 32) = (le32 (BitVec.ofNat 32 n)).toList := by
  have hword : BitVec.ofNat 32 (n % 2 ^ 32) = BitVec.ofNat 32 n := BitVec.eq_of_toNat_eq (by simp)
  rw [leBytes_four, hword]

/-- A placed word is the write of it to `CMD`. -/
theorem withFetchWord_eq (s : State) (w : Nat) :
    s.withFetchWord 32 w = { s with pending := commandWrite (BitVec.ofNat 32 w) :: s.pending } := by
  rw [State.withFetchWord, leBytes_four_mod]
  rfl

/-- The table decoder reads the word of a number. -/
theorem decode_of_decodeTableWord {w : Nat} {i : Instr} (h : decodeTableWord 32 w = some i) :
    decode (BitVec.ofNat 32 w) = .instr i := by
  rw [decodeTableWord, leBytes_four_mod, decodeBytes_le32] at h
  cases hd : decode (BitVec.ofNat 32 w) with
  | instr j =>
    rw [hd] at h
    exact congrArg Decoded.instr (Option.some.inj h)
  | illegal why =>
    rw [hd] at h
    cases h

/-! ## Which step changes the registers (20_memory.md R41 (d)) -/

/-- A step keeps every register, or it delivered the reset input or a command word. -/
theorem step_engine_cases {s t : State} (h : step s = .next t) :
    t.engine = s.engine ∨
    ∃ x rest, s.pending = x :: rest ∧ t.pending = rest ∧
      ((x = .reset ∧ t.engine = Engine.reset) ∨ ∃ w, x = commandWrite w ∧ CommandEffect w s.engine t.engine) := by
  rcases step_cases h with ⟨-, rfl⟩ | ⟨x, rest, hs, hx⟩
  · exact .inl rfl
  have hrest : s.popPending.pending = rest := by rw [State.popPending_pending, hs, List.tail_cons]
  rcases perform_cases hx with ⟨hr, rfl⟩ | ⟨_, -, rfl⟩ | ⟨_, -, rfl⟩ | ⟨_, -, rfl⟩ | ⟨w, e, hr, he, rfl⟩
  · exact .inr ⟨x, rest, hs, hrest, .inl ⟨(route_eq_reset_iff x).mp hr, rfl⟩⟩
  · exact .inl rfl
  · exact .inl rfl
  · exact .inl rfl
  · exact .inr ⟨x, rest, hs, hrest, .inr ⟨w, eq_commandWrite_of_route hr, he⟩⟩

/-- The write of a word that decodes to a command is the host's write of that command. -/
theorem commandWrite_of_decode {w : Word} {i : Instr} (h : decode w = .instr i) : commandWrite w = commandStep i := by
  rw [commandStep, encode_of_decode h]

/-- What a command word can do to `COUNT` (10_state.md R16). -/
theorem CommandEffect.count_cases {w : Word} {e e' : Engine} (h : CommandEffect w e e') :
    e'.count = e.count ∨
    (e'.count = e.count + 1 ∧ e.phase = .absorb ∧
      ∃ cp : CodePoint, cp.toNat < 128 ∧ commandWrite w = commandStep (.push cp)) ∨
    (e' = Engine.reset ∧ commandWrite w = commandStep .init) := by
  cases h with
  | init hd => exact .inr (.inr ⟨rfl, commandWrite_of_decode hd⟩)
  | ignored => exact .inl rfl
  | illegal => exact .inl rfl
  | outOfSequence => exact .inl rfl
  | absorbed cp hd hp hc =>
    exact .inr (.inl ⟨Engine.absorb_count _ _, hp, cp, hc, commandWrite_of_decode hd⟩)
  | notAscii => exact .inl rfl
  | finished => exact .inl (Engine.finish_count _)

/-- What a command word can do to the outputs (10_state.md R18 to R20). -/
theorem CommandEffect.outputs_cases {w : Word} {e e' : Engine} (h : CommandEffect w e e') :
    (e'.digest = e.digest ∧ e'.rdigest = e.rdigest ∧ e'.key = e.key) ∨ OutputsZero e' ∨
    (e.phase = .absorb ∧ e'.phase = .done ∧ commandWrite w = commandStep .final) := by
  cases h with
  | init => exact .inr (.inl ⟨rfl, rfl, rfl⟩)
  | ignored => exact .inl ⟨rfl, rfl, rfl⟩
  | illegal => exact .inr (.inl (Engine.enterFault_outputsZero _ _ _))
  | outOfSequence => exact .inr (.inl (Engine.enterFault_outputsZero _ _ _))
  | absorbed => exact .inl ⟨Engine.absorb_digest _ _, Engine.absorb_rdigest _ _, Engine.absorb_key _ _⟩
  | notAscii => exact .inr (.inl (Engine.enterFault_outputsZero _ _ _))
  | finished hd hp => exact .inr (.inr ⟨hp, Engine.finish_phase _, commandWrite_of_decode hd⟩)

end Sys2Proof.Machine

namespace Sys2Proof.Proofs

open Host Sys2Proof Sys2Proof.Machine

/-- Settles O21: the route of such an access is `outside`, whatever its size. -/
theorem outsideWindowNotAnswered : Obligations.OutsideWindowNotAnswered :=
  fun _ s h => ⟨fun size => perform_outside (route_read_outside (not_inWindow h) size) s,
    fun bytes => perform_outside (route_write_outside (not_inWindow h) bytes) s⟩

/-- Settles O27: the write reaches the sequencer, which runs what the word decodes to. -/
theorem stepRunsDecodedCommand : Obligations.StepRunsDecodedCommand :=
  fun _ _ _ _ hs hd => step_of_pending_command hs hd

/-- Settles O29: a host step completes, and with none pending the step does nothing. -/
theorem stepNeverStops : Obligations.StepNeverStops := by
  refine ⟨fun s => ?_, fun _ => step_of_pending_nil⟩
  cases hs : s.pending with
  | nil => exact ⟨s, step_of_pending_nil hs⟩
  | cons x rest => exact ⟨_, (step_of_pending_cons hs).trans (perform_eq x _)⟩

/-- Settles O28: placing a word puts its write in front, and the rest is the step on a pending command. -/
theorem placedWordRuns : Obligations.PlacedWordRuns := by
  intro s w i h
  rw [withFetchWord_eq]
  exact step_of_pending_command rfl (decode_of_decodeTableWord h)

/-- Settles O20: without an illegal access the program is the run of its steps, which completes. -/
theorem safeProgramsComplete : Obligations.SafeProgramsComplete := by
  intro p s hp
  obtain ⟨t, ht⟩ := runSteps_next p s
  exact ⟨t, (runProgram_eq_runSteps hp s).trans ht, ht⟩

/-- Settles O30: every other step keeps the registers. -/
theorem onlyCommandsAndResetChangeRegisters : Obligations.OnlyCommandsAndResetChangeRegisters := by
  intro s t h hne
  rcases step_engine_cases h with hkept | ⟨x, rest, hs, ht, ⟨hx, -⟩ | ⟨w, hx, -⟩⟩
  · exact absurd hkept hne
  · exact ⟨x, rest, hs, ht, .inl hx⟩
  · exact ⟨x, rest, hs, ht, .inr ⟨w, hx⟩⟩

/-- Settles O31: of the steps that change registers, by what a command word can do to `COUNT`. -/
theorem countChangesOnlyByPushInitReset : Obligations.CountChangesOnlyByPushInitReset := by
  intro s t h hne
  rcases step_engine_cases h with hkept | ⟨x, rest, hs, -, ⟨rfl, hreset⟩ | ⟨w, rfl, heffect⟩⟩
  · exact absurd (congrArg Engine.count hkept) hne
  · exact .inr ⟨congrArg Engine.count hreset, hreset, rest, .inl hs⟩
  · rcases heffect.count_cases with hkept | ⟨hcount, hp, cp, hc, hw⟩ | ⟨hreset, hw⟩
    · exact absurd hkept hne
    · exact .inl ⟨hcount, hp, cp, rest, hc, hw ▸ hs⟩
    · exact .inr ⟨congrArg Engine.count hreset, hreset, rest, .inr (hw ▸ hs)⟩

/-- Settles O32: of the steps that change registers, by what a command word can do to the outputs. -/
theorem outputsChangeOnlyByFinalOrToZero : Obligations.OutputsChangeOnlyByFinalOrToZero := by
  intro s t h hne
  rcases step_engine_cases h with hkept | ⟨x, rest, hs, -, ⟨rfl, hreset⟩ | ⟨w, rfl, heffect⟩⟩
  · simp [hkept] at hne
  · exact .inl (hreset ▸ ⟨rfl, rfl, rfl⟩)
  · rcases heffect.outputs_cases with ⟨hdigest, hrdigest, hkey⟩ | hzero | ⟨hp, hdone, hw⟩
    · simp [hdigest, hrdigest, hkey] at hne
    · exact .inl hzero
    · exact .inr ⟨hp, hdone, rest, hw ▸ hs⟩

end Sys2Proof.Proofs
end

section
/-! PROOFS. The invariants of the registers (10_state.md R28; 40_commands.md R70, R72): the induction over a run, the sound engines, the engines
that show a message; then the six statements of the family. -/

namespace Sys2Proof

open Host Machine

/-! ## The induction: what reset has and every command word keeps, every step and every run keeps -/

section Induction

variable {P : Engine → Prop}

theorem perform_keeps (hreset : P Engine.reset) (hword : ∀ {w e e'}, CommandEffect w e e' → P e → P e')
    {x : HostStep} {s t : State} (h : perform x s = .next t) (hs : P s.engine) : P t.engine := by
  rcases perform_cases h with ⟨-, rfl⟩ | ⟨_, -, rfl⟩ | ⟨_, -, rfl⟩ | ⟨_, -, rfl⟩ | ⟨w, e, -, he, rfl⟩
  · exact hreset
  · exact hs
  · exact hs
  · exact hs
  · exact hword he hs

theorem step_keeps (hreset : P Engine.reset) (hword : ∀ {w e e'}, CommandEffect w e e' → P e → P e')
    {s t : State} (h : step s = .next t) (hs : P s.engine) : P t.engine := by
  rcases step_cases h with ⟨-, rfl⟩ | ⟨x, rest, -, hx⟩
  · exact hs
  · exact perform_keeps hreset hword hx hs

theorem runSteps_keeps (hreset : P Engine.reset) (hword : ∀ {w e e'}, CommandEffect w e e' → P e → P e')
    {xs : List HostStep} {s t : State} (h : runSteps xs s = .next t) (hs : P s.engine) : P t.engine := by
  induction xs generalizing s with
  | nil =>
    obtain rfl : s = t := Outcome.next.inj h
    exact hs
  | cons x xs ih =>
    obtain ⟨u, hx, hu⟩ := andThen_next_inv h
    exact ih hu (perform_keeps hreset hword hx hs)

end Induction

/-! ## Sound engines (10_state.md R28) -/

/-- Every digit is a lowercase hexadecimal one (43_hex_formatter.md R107). -/
theorem isHexChar_hexDigit : ∀ v : BitVec 4, isHexChar (hexDigit v) = true := by
  decide

/-- Every character of a print is one (40_commands.md R72). -/
theorem isHexChar_hexLower (r : Digest) (j : Fin 32) : isHexChar (hexLower r)[j.val] = true := by
  obtain ⟨i, hi, hj | hj⟩ : ∃ i, i < 16 ∧ (j.val = 2 * i ∨ j.val = 2 * i + 1) := ⟨j.val / 2, by omega, by omega⟩
  · simp only [hj, hexLower_even r i hi, isHexChar_hexDigit]
  · simp only [hj, hexLower_odd r i hi, isHexChar_hexDigit]

theorem engineSound_reset : EngineSound Engine.reset where
  cause := by simp [CauseExactlyInFault]
  info := fun _ => rfl
  outputsZero := fun _ => ⟨rfl, rfl, rfl⟩
  outputsAgree := fun hp => by simp at hp
  bufferedAscii := fun _ j hj => absurd hj (Nat.not_lt_zero j.val)

/-- Outside phase `FAULT` a sound engine has no cause recorded. -/
theorem EngineSound.cause_none {e : Engine} (h : EngineSound e) (hp : e.phase ≠ .fault) : e.cause = .none :=
  by_contra fun hc => hp (h.cause.mp hc)

theorem engineSound_enterFault (e : Engine) {c : Cause} (hc : c ≠ .none) (w : Word) :
    EngineSound (e.enterFault c w) where
  cause := iff_of_true hc rfl
  info := fun hp => absurd rfl hp
  outputsZero := fun _ => e.enterFault_outputsZero c w
  outputsAgree := fun hp => by simp at hp
  bufferedAscii := fun hp => by simp at hp

/-- The stored byte joins those before it; a full buffer holds no byte any more (R28 (f)). -/
theorem bufferedBytesAscii_absorb {e : Engine} (h : BufferedBytesAscii e) {b : Byte} (hb : b.toNat < 128) :
    BufferedBytesAscii (e.absorb b) := by
  intro hp j hj
  have hcount : (e.count + 1).toNat % 64 = (e.count.toNat + 1) % 64 := by
    rw [BitVec.toNat_add]
    simp
  rw [Engine.absorb_count, hcount] at hj
  simp only [Engine.absorb_buf, Vector.getElem_set, Engine.fillIndex]
  split
  · exact hb
  · exact h (e.absorb_phase b ▸ hp) j (by omega)

theorem EngineSound.absorb {e : Engine} (h : EngineSound e) (hp : e.phase = .absorb) {b : Byte} (hb : b.toNat < 128) :
    EngineSound (e.absorb b) where
  cause := by simpa [CauseExactlyInFault] using h.cause
  info := by simpa [NoInfoOutsideFault] using h.info
  outputsZero := by simpa [OutputsOnlyWhenDone, OutputsZero] using h.outputsZero
  outputsAgree := by simp [OutputsAgreeWhenDone, hp]
  bufferedAscii := bufferedBytesAscii_absorb h.bufferedAscii hb

/-- `FINAL` writes the reversal of the digest and its print (R28 (e)). -/
theorem EngineSound.finish {e : Engine} (h : EngineSound e) (hp : e.phase = .absorb) : EngineSound e.finish where
  cause := by simp [CauseExactlyInFault, h.cause_none (by simp [hp])]
  info := fun _ => by simpa using h.info (by simp [hp])
  outputsZero := fun hd => absurd e.finish_phase hd
  outputsAgree := fun _ => by
    simp only [Engine.finish_digest, Engine.finish_rdigest, Engine.finish_key]
    exact ⟨fun i => reverseBytes_getElem _ i.val i.isLt,
      fun i => ⟨hexLower_even _ i.val i.isLt, hexLower_odd _ i.val i.isLt⟩, isHexChar_hexLower _⟩
  bufferedAscii := fun hd => by simp at hd

/-- Every command word keeps an engine sound. -/
theorem engineSound_of_effect {w : Word} {e e' : Engine} (h : CommandEffect w e e') (hs : EngineSound e) :
    EngineSound e' := by
  cases h with
  | init => exact engineSound_reset
  | ignored => exact hs
  | illegal => exact engineSound_enterFault e (by decide) w
  | outOfSequence i => exact engineSound_enterFault e (by decide) (encode i)
  | absorbed cp _ hp hc => exact hs.absorb hp ((codePointByte_toNat hc).trans_lt hc)
  | notAscii cp => exact engineSound_enterFault e (by decide) (encode (.push cp))
  | finished _ hp => exact hs.finish hp

/-! ## Engines that show a message (40_commands.md R70) -/

theorem absorbAll_phase (m : List Byte) : (absorbAll m).phase = .absorb := foldl_absorb_phase m Engine.reset

theorem absorbAll_append (m : List Byte) (b : Byte) : absorbAll (m ++ [b]) = (absorbAll m).absorb b :=
  foldl_absorb_append Engine.reset m b

theorem showsMessage_absorbAll {m : List Byte} (h : AsciiMessage m) : ShowsMessage (absorbAll m) := by
  rw [ShowsMessage, absorbAll_phase]
  exact ⟨m, h, rfl⟩

theorem showsMessage_reset : ShowsMessage Engine.reset := showsMessage_absorbAll (m := []) (by simp [AsciiMessage])

/-- In phase `ABSORB` the registers are those of absorbing an ASCII message. -/
theorem ShowsMessage.of_absorb {e : Engine} (h : ShowsMessage e) (hp : e.phase = .absorb) :
    ∃ m, AsciiMessage m ∧ e = absorbAll m := by
  rwa [ShowsMessage, hp] at h

/-- In phase `DONE` the key is that of an ASCII message. -/
theorem ShowsMessage.key_of_done {e : Engine} (h : ShowsMessage e) (hp : e.phase = .done) :
    ∃ m, AsciiMessage m ∧ e.key = keyOf m := by
  rw [ShowsMessage, hp] at h
  obtain ⟨m, hm, -, -, hkey, -⟩ := h
  exact ⟨m, hm, hkey⟩

theorem showsMessage_enterFault (e : Engine) (c : Cause) (w : Word) : ShowsMessage (e.enterFault c w) := by
  rw [ShowsMessage, Engine.enterFault_phase]
  exact e.enterFault_outputsZero c w

/-- `FINAL` shows the digest of the absorbed message, its reversal, its key and its length. -/
theorem showsMessage_finish {m : List Byte} (h : AsciiMessage m) : ShowsMessage (absorbAll m).finish := by
  have hholds := holds_absorbAll m
  rw [ShowsMessage, Engine.finish_phase]
  refine ⟨m, h, hholds.finish_digest, ?_, hholds.finish_key, ?_⟩
  · rw [Engine.finish_rdigest, ← Engine.finish_digest, hholds.finish_digest]
  · rw [Engine.finish_count, hholds.count]

/-- Every command word keeps it that a message is shown. -/
theorem showsMessage_of_effect {w : Word} {e e' : Engine} (h : CommandEffect w e e') (hs : ShowsMessage e) :
    ShowsMessage e' := by
  cases h with
  | init => exact showsMessage_reset
  | ignored => exact hs
  | illegal => exact showsMessage_enterFault e _ w
  | outOfSequence i => exact showsMessage_enterFault e _ (encode i)
  | absorbed cp _ hp hc =>
    obtain ⟨m, hm, rfl⟩ := hs.of_absorb hp
    have hb : (codePointByte cp).toNat < 128 := (codePointByte_toNat hc).trans_lt hc
    rw [← absorbAll_append]
    exact showsMessage_absorbAll (List.forall_mem_append.mpr ⟨hm, List.forall_mem_singleton.mpr hb⟩)
  | notAscii cp => exact showsMessage_enterFault e _ (encode (.push cp))
  | finished _ hp =>
    obtain ⟨m, hm, rfl⟩ := hs.of_absorb hp
    exact showsMessage_finish hm

end Sys2Proof

namespace Sys2Proof.Proofs

open Host Sys2Proof Sys2Proof.Machine

/-- Settles O33: no cause is recorded, the outputs are zero, and no byte is in the buffer. -/
theorem resetIsSound : Obligations.ResetIsSound := engineSound_reset

/-- Settles O34: by the induction over steps, from what each command does. -/
theorem stepKeepsSound : Obligations.StepKeepsSound :=
  fun _ _ hs h => step_keeps engineSound_reset engineSound_of_effect h hs

/-- Settles O35: the reset registers are those of absorbing the empty message. -/
theorem resetShowsMessage : Obligations.ResetShowsMessage := showsMessage_reset

/-- Settles O36: by the same induction; `FINAL` computes `MD5` of what was absorbed. -/
theorem stepKeepsShowsMessage : Obligations.StepKeepsShowsMessage :=
  fun _ _ hs h => step_keeps showsMessage_reset showsMessage_of_effect h hs

/-- Settles O37: the absorbed registers hold the message, and its last whole block ends at `length - length % 64`. -/
theorem bufferHoldsMessageTail : Obligations.BufferHoldsMessageTail := by
  intro m
  have hholds := holds_absorbAll m
  refine ⟨hholds.count, absorbAll_phase m, fun j hj => ?_⟩
  have hwhole : m.length - m.length % 64 + j.val = 64 * (m.length / 64) + j.val := by omega
  have hin : 64 * (m.length / 64) + j.val < m.length := by omega
  rw [hwhole, hholds.buf j.val j.isLt hj, List.getD_eq_getElem _ _ hin, List.getElem?_eq_getElem hin]

/-- Settles O56: along a run from reset both invariants hold. -/
theorem everyRunShowsOnlyDerivedKeys : Obligations.EveryRunShowsOnlyDerivedKeys := by
  intro xs
  obtain ⟨t, ht⟩ := runSteps_next xs State.reset
  have hsound := runSteps_keeps engineSound_reset engineSound_of_effect ht engineSound_reset
  have hshows := runSteps_keeps showsMessage_reset showsMessage_of_effect ht showsMessage_reset
  refine ⟨t, ht, fun hp => ⟨hshows.key_of_done hp, ?_⟩, hsound.outputsZero⟩
  obtain ⟨-, -, hhex⟩ := hsound.outputsAgree hp
  exact hhex

end Sys2Proof.Proofs
end

section
/-! PROOFS. The hidden registers `A` to `D` and `BUF` (10_state.md section 8): a second machine that differs in them alone, step by step; then
the statement of the family. -/

namespace Sys2Proof.Machine

open Host

/-- The registers with other values in the hidden ones. -/
def Engine.withHidden (e : Engine) (h : Chain) (p : Block) : Engine := (e.withChain h).withBuf p

@[simp] theorem Engine.withHidden_phase (e : Engine) (h : Chain) (p : Block) : (e.withHidden h p).phase = e.phase := rfl

@[simp] theorem Engine.withHidden_enterFault (e : Engine) (h : Chain) (p : Block) (c : Cause) (w : Word) :
    (e.withHidden h p).enterFault c w = (e.enterFault c w).withHidden h p := rfl

/-- No register of the window shows a hidden one. -/
theorem readRegister_withHidden (e : Engine) (h : Chain) (p : Block) (r : WindowReg) :
    readRegister (e.withHidden h p) r = readRegister e r := by
  cases r <;> rfl

/-- The host gets the same response. -/
theorem Engine.withHidden_answers (e : Engine) (h : Chain) (p : Block) (r : Route) :
    (e.withHidden h p).answers r = e.answers r := by
  cases r with
  | read r => exact congrArg (fun v => [Response.data v]) (readRegister_withHidden e h p r)
  | reset => rfl
  | outside off => rfl
  | illegal off => rfl
  | command w => rfl

/-- Outside phase `ABSORB` a word other than `INIT` leaves the registers or enters a fault (60_exceptions.md R137). -/
theorem Engine.afterWord_of_not_absorb {e : Engine} (hp : e.phase ≠ .absorb) {w : Word} (hw : w ≠ 0x10000000) :
    e.afterWord w =
      if e.phase = .fault then e
      else if legalWord w = false then e.enterFault .illegalCommand w else e.enterFault .sequenceError w := by
  rw [Engine.afterWord_priority e hw]
  cases hphase : e.phase with
  | absorb => exact absurd hphase hp
  | done => simp
  | fault => simp

/-- Two engines that no host can tell apart: they are equal, or differ in the hidden registers outside phase `ABSORB`. -/
def SameToHost (e e' : Engine) : Prop :=
  e' = e ∨ (e.phase ≠ .absorb ∧ ∃ h p, e' = e.withHidden h p)

/-- A word other than `INIT` neither reads the hidden registers outside phase `ABSORB` nor leads into that phase. -/
theorem sameToHost_afterWord {e : Engine} (hp : e.phase ≠ .absorb) (h : Chain) (p : Block) (w : Word) :
    SameToHost (e.afterWord w) ((e.withHidden h p).afterWord w) := by
  by_cases hw : w = 0x10000000
  · rw [hw, Engine.afterWord_init, Engine.afterWord_init]
    exact .inl rfl
  · rw [Engine.afterWord_of_not_absorb hp hw, Engine.afterWord_of_not_absorb (e := e.withHidden h p) hp hw,
      Engine.withHidden_phase, Engine.withHidden_enterFault, Engine.withHidden_enterFault]
    refine .inr ?_
    split
    · exact ⟨hp, h, p, rfl⟩
    split
    · exact ⟨by simp, h, p, rfl⟩
    · exact ⟨by simp, h, p, rfl⟩

/-- A host step gives both machines the same response and keeps them alike. -/
theorem SameToHost.host_step {e e' : Engine} (hs : SameToHost e e') (r : Route) :
    e'.answers r = e.answers r ∧ SameToHost (e.afterRoute r) (e'.afterRoute r) := by
  rcases hs with rfl | ⟨hp, h, p, rfl⟩
  · exact ⟨rfl, .inl rfl⟩
  refine ⟨e.withHidden_answers h p r, ?_⟩
  cases r with
  | reset => exact .inl rfl
  | command w => exact sameToHost_afterWord hp h p w
  | outside off => exact .inr ⟨hp, h, p, rfl⟩
  | illegal off => exact .inr ⟨hp, h, p, rfl⟩
  | read r => exact .inr ⟨hp, h, p, rfl⟩

/-- Two machines that have answered alike and are alike to the host answer every run alike. -/
theorem runSteps_of_sameToHost {s u : State} (he : SameToHost s.engine u.engine) (ho : u.observed = s.observed)
    (xs : List HostStep) :
    ∃ t v, runSteps xs s = .next t ∧ runSteps xs u = .next v ∧ v.observed = t.observed := by
  induction xs generalizing s u with
  | nil => exact ⟨s, u, rfl, rfl, ho⟩
  | cons x xs ih =>
    obtain ⟨hanswers, hnext⟩ := he.host_step (route x)
    simp only [runSteps, perform_eq, andThen_next]
    exact ih hnext (by rw [hanswers, ho])

end Sys2Proof.Machine

namespace Sys2Proof.Proofs

open Host Sys2Proof Sys2Proof.Machine

/-- Settles O55: the two machines are alike to the host at the start, and so along the run. -/
theorem hiddenRegistersUnobservable : Obligations.HiddenRegistersUnobservable :=
  fun xs s h p hp =>
    runSteps_of_sameToHost (u := s.withEngine (s.engine.withHidden h p)) (.inr ⟨hp, h, p, rfl⟩) rfl xs

end Sys2Proof.Proofs
end

section
/-! PROOFS. Closed facts of the MD5 unit (41_md5_engine.md R83, R85, R94, R95): rotation and the bit length, the step tables, the digests of
three messages; then the three statements of the family. -/

namespace Sys2Proof.Machine

/-- Rotation moves bit `k` to bit `k + n`, counted modulo 32 (00_scope.md R8). -/
theorem rotl32_getLsbD (v : Word) {n k : Nat} (hn : n < 32) (hk : k < 32) :
    (rotl32 v n).getLsbD ((k + n) % 32) = v.getLsbD k := by
  rw [rotl32, BitVec.getLsbD_or, BitVec.getLsbD_shiftLeft, BitVec.getLsbD_ushiftRight]
  by_cases hwrap : k + n < 32
  · have hplace : (k + n) % 32 = k + n := Nat.mod_eq_of_lt hwrap
    have hhigh : v.getLsbD (32 - n + (k + n)) = false := BitVec.getLsbD_of_ge _ _ (by omega)
    simp [hplace, hhigh, hwrap]
  · have hplace : (k + n) % 32 = k + n - 32 := by omega
    have hback : 32 - n + (k + n - 32) = k := by omega
    have hlow : k + n - 32 < n := by omega
    simp [hplace, hback, hlow]

/-- The bit length is `COUNT` without its three high bits, followed by three zeros (41_md5_engine.md R94 (b)). -/
theorem Engine.bitCount_eq_append (e : Engine) : e.bitCount = e.count.extractLsb' 0 61 ++ (0 : BitVec 3) := by
  apply BitVec.eq_of_toNat_eq
  rw [Engine.bitCount_eq_ofNat, BitVec.toNat_append, ← Nat.shiftLeft_add_eq_or_of_lt (BitVec.isLt _)]
  simp only [BitVec.extractLsb'_toNat, BitVec.ofNat_eq_ofNat, BitVec.toNat_ofNat, Nat.shiftLeft_eq,
    Nat.shiftRight_eq_div_pow]
  omega

/-- The ASCII test on the bits of a character (R94 (e)). -/
theorem isAscii_iff_bits (cp : CodePoint) : isAscii cp = true ↔ cp.extractLsb' 7 14 = 0 := by
  have hcp := cp.isLt
  rw [isAscii_iff, ← BitVec.toNat_inj, BitVec.extractLsb'_toNat, Nat.shiftRight_eq_div_pow]
  simp only [BitVec.ofNat_eq_ofNat, BitVec.toNat_ofNat]
  omega

/-- In each round the sixteen steps take different words (R85). -/
theorem stepK_round_injective : ∀ r : Fin 4, ∀ i j : Fin 16,
    stepK (16 * r.val + i.val) = stepK (16 * r.val + j.val) → i = j := by
  decide

/-- In each round every word is taken. -/
theorem stepK_round_surjective : ∀ r : Fin 4, ∀ k : Fin 16, ∃ j : Fin 16, stepK (16 * r.val + j.val) = k.val := by
  decide

/-- The message of the source, the letters 'A' to 'P'. -/
theorem md5_source_message :
    (md5 [0x41, 0x42, 0x43, 0x44, 0x45, 0x46, 0x47, 0x48, 0x49, 0x4a, 0x4b, 0x4c, 0x4d, 0x4e, 0x4f, 0x50]).toList =
      [0x19, 0xfc, 0x8e, 0xff, 0x82, 0x03, 0x7f, 0x1f, 0xc0, 0xd8, 0xea, 0x1d, 0x32, 0xb5, 0xe3, 0x39] := by
  decide +kernel

end Sys2Proof.Machine

namespace Sys2Proof.Proofs

open Host Sys2Proof Sys2Proof.Machine

/-- Settles O41: the two shifts of a rotation, and multiplication and comparison as numbers. -/
theorem rotateAndBitLength : Obligations.RotateAndBitLength :=
  ⟨fun v _ k _ hs => rotl32_getLsbD v (by omega) k.isLt, Engine.bitCount_eq_append, isAscii_iff_bits⟩

/-- Settles O39: the 64 entries are compared; `K` takes every word of a round, and none twice. -/
theorem stepTablesByFormula : Obligations.StepTablesByFormula := by
  refine ⟨by decide, fun r k => ?_, rfl⟩
  obtain ⟨j, hj⟩ := stepK_round_surjective r k
  exact ⟨j, hj, fun i hi => stepK_round_injective r i j (hi.trans hj.symm)⟩

/-- Settles O44: each digest is computed, one block per message. -/
theorem md5Examples : Obligations.Md5Examples :=
  ⟨by decide +kernel, by decide +kernel, md5_source_message⟩

end Sys2Proof.Proofs
end

section
/-! PROOFS. The host (44_host_shell.md R115 to R127): the driver sequence as the run of `DERIVE` and the reads behind it, the trimming of a line,
the shell on a line; then the four statements of the family. -/

namespace Sys2Proof.Machine

open Host

/-! ## Sequences -/

theorem andThen_assoc {σ τ υ : Type} (o : Outcome σ Fault Refusal) (f : σ → Outcome τ Fault Refusal)
    (g : τ → Outcome υ Fault Refusal) : andThen (andThen o f) g = andThen o fun s => andThen (f s) g := by
  cases o with
  | next s => rfl
  | fault r => rfl
  | refused r => rfl

theorem runSteps_append (xs ys : List HostStep) (s : State) :
    runSteps (xs ++ ys) s = andThen (runSteps xs s) (runSteps ys) := by
  induction xs generalizing s with
  | nil => rfl
  | cons x xs ih =>
    rw [List.cons_append, runSteps, runSteps, andThen_assoc]
    exact congrArg _ (funext ih)

theorem runSteps_singleton (x : HostStep) (s : State) : runSteps [x] s = perform x s := by
  rw [runSteps, perform_eq, andThen_next, runSteps]

/-! ## The host's primitives on legal accesses (00_scope.md R8) -/

/-- Writing a command word is the one host step of it. -/
theorem memWrite_command (w : Word) (s : State) : memWrite 0x00 4 w.toNat s = perform (commandWrite w) s := by
  have hstep : HostStep.write 0x00 (leBytes 4 w.toNat) = commandWrite w := by
    rw [leBytes_four, BitVec.ofNat_toNat, BitVec.setWidth_eq, commandWrite]
  rw [memWrite, hstep, perform_commandWrite_eq, andThen_next]
  rfl

/-- Reading a register gives its value and leaves the registers. -/
theorem memRead_register (r : WindowReg) (s : State) :
    memRead r.offset 4 s = .next (s.respond (.data (readRegister s.engine r)), readRegister s.engine r) := by
  rw [memRead, perform_read, andThen_next]
  rfl

/-! ## The driver sequence (R127) -/

theorem pushAll_eq_runSteps (cs : List CodePoint) (s : State) :
    pushAll cs s = runSteps (cs.map fun c => commandStep (.push c)) s := by
  induction cs generalizing s with
  | nil => rfl
  | cons c cs ih =>
    rw [pushAll, memWrite_command, List.map_cons, runSteps]
    exact congrArg _ (funext ih)

/-- The driver runs `DERIVE`, reads `STATUS` and goes by what it read. -/
theorem hostDerive_eq (cs : List CodePoint) (s : State) :
    hostDerive cs s = andThen (runSteps (deriveSteps cs) s) fun t =>
      collect (readRegister t.engine .status) (t.respond (.data (readRegister t.engine .status))) := by
  have hread (t : State) : memRead 0x04 4 t = _ := memRead_register .status t
  have hinit (t : State) : memWrite 0x00 4 0x10000000 t = _ := memWrite_command 0x10000000 t
  have hfinal (t : State) : memWrite 0x00 4 0x30000000 t = _ := memWrite_command 0x30000000 t
  have hsteps : deriveSteps cs =
      [commandStep .init] ++ (cs.map (fun c => commandStep (.push c)) ++ [commandStep .final]) := rfl
  simp only [hostDerive, hinit, hfinal, hread, pushAll_eq_runSteps, andThen_next, hsteps, runSteps_append,
    runSteps_singleton, andThen_assoc]
  rfl

/-- The reads of the key registers give their bytes one after the other. -/
theorem readKeys_registers (qs : List (Fin 8)) (s : State) :
    ∃ t, readKeys (qs.map Fin.val) s =
      .next (t, qs.flatMap fun q => (le32 (readRegister s.engine (.key q))).toList) := by
  induction qs generalizing s with
  | nil => exact ⟨s, rfl⟩
  | cons q qs ih =>
    have hread : memRead (0x40 + 4 * (q.val : Int)) 4 s = _ := memRead_register (.key q) s
    obtain ⟨t, ht⟩ := ih (s.respond (.data (readRegister s.engine (.key q))))
    refine ⟨t, ?_⟩
    rw [List.map_cons, readKeys, hread, andThen_next]
    simp only [ht, andThen_next, State.respond_engine, List.flatMap_cons]

/-- `STATUS` was `DONE`: the driver returns the key. -/
theorem collect_done (s : State) : ∃ t, collect 0x00000001 s = .next (t, .ok s.engine.key.toList) := by
  have hregs : [0, 1, 2, 3, 4, 5, 6, 7] = (List.finRange 8).map Fin.val := by decide
  obtain ⟨t, ht⟩ := readKeys_registers (List.finRange 8) s
  refine ⟨t, ?_⟩
  rw [collect, if_pos rfl, hregs, ht, andThen_next]
  simp only [le32_readRegister_key, toList_eq_flatMap_four (m := 8) s.engine.key]

/-- Any other `STATUS`: it returns the cause and `FAULTINFO`. -/
theorem collect_error {st : Word} (h : st ≠ 0x00000001) (s : State) :
    ∃ t, collect st s = .next (t, .error (st.extractLsb' 8 4) s.engine.faultInfo) := by
  have hread : memRead 0x08 4 s = _ := memRead_register .faultInfo s
  rw [collect, if_neg h, hread, andThen_next]
  exact ⟨_, rfl⟩

/-- The driver on an ASCII message (R127, 40_commands.md R70 (a)). -/
theorem hostDerive_ascii {cs : List CodePoint} (h : ∀ c ∈ cs, c.toNat < 128) (s : State) :
    ∃ t, hostDerive cs s = .next (t, .ok (keyOf (cs.map codePointByte)).toList) := by
  have hcause : (absorbAll (cs.map codePointByte)).cause = .none := foldl_absorb_cause _ _
  have hstatus : readRegister (derivedEngine cs) .status = 0x00000001 := by
    rw [derivedEngine_ascii h]
    exact Engine.status_of_done (Engine.finish_phase _) ((Engine.finish_cause _).trans hcause)
  have hkey : (derivedEngine cs).key = keyOf (cs.map codePointByte) := by
    rw [derivedEngine_ascii h, (holds_absorbAll _).finish_key]
  rw [hostDerive_eq, runSteps_deriveSteps, andThen_next, hstatus, ← hkey]
  exact collect_done _

/-- The driver on a message with a first character that is not ASCII (R70 (b)). -/
theorem hostDerive_notAscii {front back : List CodePoint} {c : CodePoint} (hf : ∀ c' ∈ front, c'.toNat < 128)
    (hc : 128 ≤ c.toNat) (s : State) :
    ∃ t, hostDerive (front ++ c :: back) s = .next (t, .error 1 (encode (.push c))) := by
  have hstatus : readRegister (derivedEngine (front ++ c :: back)) .status = 0x00000102 := by
    rw [derivedEngine_notAscii hf hc]
    exact Engine.enterFault_status _ .encodingError _
  have hinfo : (derivedEngine (front ++ c :: back)).faultInfo = encode (.push c) := by
    rw [derivedEngine_notAscii hf hc, Engine.enterFault_faultInfo]
  rw [hostDerive_eq, runSteps_deriveSteps, andThen_next, hstatus, ← hinfo]
  exact collect_error (by decide) _

theorem derive_ascii {cs : List CodePoint} (h : ∀ c ∈ cs, c.toNat < 128) :
    derive cs = .ok (keyOf (cs.map codePointByte)) := by
  rw [derive, asciiEncode_of_ascii h]

theorem derive_notAscii {cs : List CodePoint} {c : CodePoint} (hmem : c ∈ cs) (hc : 128 ≤ c.toNat) :
    derive cs = .error .encodingError := by
  rw [derive, asciiEncode_of_notAscii hmem hc]

/-! ## Trimming (R116, R125) -/

/-- Whitespace around a line does not change what trimming leaves. -/
theorem trim_surround {front back : List CodePoint} (hf : ∀ c ∈ front, Config.isWhitespace c = true)
    (hb : ∀ c ∈ back, Config.isWhitespace c = true) (line : List CodePoint) :
    trim (front ++ line ++ back) = trim line := by
  rw [trim, trim, List.append_assoc, List.dropWhile_append_of_pos hf, List.dropWhile_append]
  split
  next hempty =>
    have hback : back.dropWhile Config.isWhitespace = [] := List.dropWhile_eq_nil_iff.mpr hb
    rw [hback, List.isEmpty_iff.mp hempty]
  next =>
    rw [List.reverse_append, List.dropWhile_append_of_pos fun c hc => hb c (List.mem_reverse.mp hc)]

/-- Behind the trimmed text stands the whitespace that ends the line. -/
theorem trim_append_back (line : List CodePoint) :
    trim line ++ ((line.dropWhile Config.isWhitespace).reverse.takeWhile Config.isWhitespace).reverse =
      line.dropWhile Config.isWhitespace := by
  rw [trim, ← List.reverse_append, List.takeWhile_append_dropWhile, List.reverse_reverse]

/-- A line is whitespace, its trimmed text and whitespace. -/
theorem exists_trim_append (line : List CodePoint) : ∃ front back, line = front ++ trim line ++ back ∧
    ∀ c ∈ front ++ back, Config.isWhitespace c = true := by
  refine ⟨line.takeWhile Config.isWhitespace,
    ((line.dropWhile Config.isWhitespace).reverse.takeWhile Config.isWhitespace).reverse, ?_, fun c hc => ?_⟩
  · rw [List.append_assoc, trim_append_back, List.takeWhile_append_dropWhile]
  · rcases List.mem_append.mp hc with hc | hc
    · exact List.mem_takeWhile_imp hc
    · exact List.mem_takeWhile_imp (List.mem_reverse.mp hc)

/-- What is left when the whitespace in front is dropped does not begin with whitespace. -/
theorem isWhitespace_of_head?_dropWhile {l : List CodePoint} {c : CodePoint}
    (h : (l.dropWhile Config.isWhitespace).head? = some c) : Config.isWhitespace c = false := by
  have hfirst := List.head?_dropWhile_not Config.isWhitespace l
  rw [h] at hfirst
  simpa using hfirst

theorem isWhitespace_of_trim_head? {line : List CodePoint} {c : CodePoint} (h : (trim line).head? = some c) :
    Config.isWhitespace c = false := by
  apply isWhitespace_of_head?_dropWhile (l := line)
  rw [← trim_append_back, List.head?_append, h, Option.some_or]

theorem isWhitespace_of_trim_getLast? {line : List CodePoint} {c : CodePoint} (h : (trim line).getLast? = some c) :
    Config.isWhitespace c = false := by
  rw [trim, List.getLast?_reverse] at h
  exact isWhitespace_of_head?_dropWhile h

theorem isWhitespace_of_mem_spaces {n : Nat} {c : CodePoint} (h : c ∈ List.replicate n 0x20) :
    Config.isWhitespace c = true :=
  List.eq_of_mem_replicate h ▸ isWhitespace_space

/-- Spaces around a line do not change what trimming leaves. -/
theorem trim_spaces (i j : Nat) (line : List CodePoint) :
    trim (List.replicate i 0x20 ++ line ++ List.replicate j 0x20) = trim line :=
  trim_surround (fun _ => isWhitespace_of_mem_spaces) (fun _ => isWhitespace_of_mem_spaces) line

/-! ## The shell (R115 to R122) -/

/-- The shell looks at nothing but the trimmed line. -/
theorem shell_congr {line line' : List CodePoint} (h : trim line = trim line') (s : State) :
    shell line s = shell line' s := by
  rw [shell, shell, h]

theorem shell_of_gate_true {line : List CodePoint} (h : (trim line).length = 16) (s : State) :
    shell line s = andThen (hostDerive (trim line) s) fun t => .next (t.1, answeredRun t.2) := by
  rw [shell, if_pos ((lengthGate_iff _).mpr h)]

/-- What the shell puts out once the driver has answered. -/
theorem shell_of_answer {line : List CodePoint} {s t : State} {r : DriverResult} (h : (trim line).length = 16)
    (hr : hostDerive (trim line) s = .next (t, r)) : shell line s = .next (t, answeredRun r) := by
  rw [shell_of_gate_true h, hr, andThen_next]

/-! ## The lines of letters (95_test_vectors.md H8, H9) -/

theorem letters_ascii {n : Nat} (hn : n ≤ 63) : ∀ c ∈ letters n, c.toNat < 128 := by
  intro c hc
  obtain ⟨i, hi, rfl⟩ := List.mem_map.mp hc
  have hlt : i < n := List.mem_range.mp hi
  rw [BitVec.toNat_ofNat]
  omega

/-- A line of letters begins with the kept 'A'; when its last letter is kept too, it is its own trimmed text. -/
theorem trim_letters {n : Nat} (hlast : BitVec.ofNat 21 (0x41 + n) ∈ Config.keptCharacters) :
    trim (letters (n + 1)) = letters (n + 1) := by
  refine trim_eq_self (fun c hc => isWhitespace_kept ?_) (fun c hc => isWhitespace_kept ?_)
  · rw [letters, List.range_succ_eq_map] at hc
    obtain rfl : BitVec.ofNat 21 (0x41 + 0) = c := Option.some.inj hc
    decide
  · rw [letters, List.range_succ, List.map_append, List.map_singleton, List.getLast?_concat] at hc
    exact Option.some.inj hc ▸ hlast

/-- The 16 letters end with 'P'. -/
theorem trim_letters_16 : trim (letters 16) = letters 16 := trim_letters (n := 15) (by decide)

/-- The 17 letters end with 'Q'. -/
theorem trim_letters_17 : trim (letters 17) = letters 17 := trim_letters (n := 16) (by decide)

/-- The key of the 16 letters (95_test_vectors.md V1). -/
theorem keyOf_letters_16 : (keyOf ((letters 16).map codePointByte)).toList =
    [0x33, 0x39, 0x65, 0x33, 0x62, 0x35, 0x33, 0x32, 0x31, 0x64, 0x65, 0x61, 0x64, 0x38, 0x63, 0x30,
     0x31, 0x66, 0x37, 0x66, 0x30, 0x33, 0x38, 0x32, 0x66, 0x66, 0x38, 0x65, 0x66, 0x63, 0x31, 0x39] := by
  decide +kernel

end Sys2Proof.Machine

namespace Sys2Proof.Proofs

open Host Sys2Proof Sys2Proof.Machine

/-- Settles O57: the driver is the run of `DERIVE` with reads behind it, and the registers it reads are those at the end of that run. -/
theorem driverReturnsDerive : Obligations.DriverReturnsDerive := by
  intro cs s
  rcases ascii_or_first_notAscii cs with hs | ⟨front, c, back, rfl, hc, hfront⟩
  · rw [derive_ascii hs]
    exact hostDerive_ascii hs s
  · have hmem : c ∈ front ++ c :: back := by simp
    obtain ⟨t, ht⟩ := hostDerive_notAscii (back := back) hfront hc s
    rw [derive_notAscii hmem hc]
    exact ⟨t, c, hmem, hc, ht⟩

/-- Settles O58: behind the gate the shell puts out what the driver returned. -/
theorem shellCycle : Obligations.ShellCycle := by
  intro input s
  split
  next hgate =>
    obtain ⟨t, ht⟩ := driverReturnsDerive (trim input) s
    refine ⟨t, ?_⟩
    cases hd : derive (trim input) with
    | ok k =>
      rw [hd] at ht
      exact shell_of_answer hgate ht
    | error err =>
      rw [hd] at ht
      obtain ⟨c, -, -, hr⟩ := ht
      exact shell_of_answer hgate hr
  next hgate => exact shell_of_gate_false hgate s

/-- Settles O59: the parts of a line, and spaces as a case of surrounding whitespace. -/
theorem trimmingAtTheEnds : Obligations.TrimmingAtTheEnds := by
  refine ⟨fun input => ?_, fun input i j => shell_congr (trim_spaces i j input)⟩
  obtain ⟨front, back, hline, hwhite⟩ := exists_trim_append input
  exact ⟨front, back, hline, hwhite, fun _ => isWhitespace_of_trim_head?, fun _ => isWhitespace_of_trim_getLast?⟩

/-- Settles O60: the gate on the trimmed length, the trimming between kept characters, and the key of the 16 letters. -/
theorem shellGateAndTrimming : Obligations.ShellGateAndTrimming := by
  have htrim : trim ([0x20, 0x20] ++ letters 16 ++ [0x20, 0x20]) = trim (letters 16) := trim_spaces 2 2 _
  have hgate : (trim (letters 16)).length = 16 := by
    rw [trim_letters_16]
    decide
  refine ⟨fun input s h => shell_of_gate_false ?_ s, htrim.trans trim_letters_16, fun s => ?_⟩
  · rcases h with h | h | rfl
    · exact h
    · exact ((trim_length_le input).trans_lt h).ne
    · rw [trim_letters_17]
      decide
  · obtain ⟨t, ht⟩ := hostDerive_ascii (letters_ascii (n := 16) (by omega)) s
    rw [keyOf_letters_16] at ht
    have hshell := shell_of_answer (line := letters 16) hgate (by rw [trim_letters_16]; exact ht)
    exact ⟨t, hshell, shell_congr htrim s⟩

end Sys2Proof.Proofs
end
